-- ==== Sys2Proof/Word.lean ====
section
/-! DEFINITION. The plain word types of the block (`spec/00_scope.md` R10): a byte is a u8, the frame's two-byte fields
are u16. Everything the controller computes is an `Int` or a `Nat` (R10: every expression of the controller is evaluated
in `int`). -/

namespace Sys2Proof

/-- A byte, u8 (`spec/00_scope.md` R10). -/
abbrev Byte := BitVec 8

/-- A two-byte field of a frame, u16 (`spec/20_memory.md` R52). -/
abbrev Half := BitVec 16

end Sys2Proof
end

