-- ==== Sys2Proof/Config.lean ====
section
/-! DEFINITION. What an implementation fixes (`spec/00_scope.md` R7) and the free values of the model.

The constants the source fixes are definitions. The parameters the spec leaves OPEN are the record `Params`: the machine
holds one in its state, no operation writes it, so a claim about every state is a claim about every value of the
parameters (assumption log, entry 2). The two constants without a body are the model's free values: the checksum function
of an instance other than `SUM16` (entry 3) and the inputs of a step nobody has scripted (entry 1). -/

namespace Sys2Proof.Config

/-- `START_MARKER` (R7). -/
def startMarker : Half := 0xAA55
/-- `END_MARKER` (R7). -/
def endMarker : Half := 0x0D0A
/-- `FRAME_BYTES` (R7): the frame buffer's addresses are 0 to 11 (`spec/20_memory.md` R50). -/
def frameBytes : Nat := 12
/-- `SEQ_COUNT` (R7): the sequence count ENCODE writes. -/
def seqCount : Byte := 1
/-- `CLAMP_LO` (R7). -/
def clampLo : Int := 0
/-- `CLAMP_HI` (R7). -/
def clampHi : Int := 90

/-- Which function the parameter `CK16` is (R7; `spec/40_checksum.md` R101, R105). -/
inductive CkInstance where
  /-- the default instance, `SUM16` (R102) -/
  | sum16
  /-- any other total function of the byte list with CK-P3; which one is not known to the model -/
  | other (k : Nat)
  deriving DecidableEq, Repr

/-- `SEEK_DUTY_MODE` (R7). -/
inductive DutyMode where
  | fixed
  | proportional
  deriving DecidableEq, Repr

/-- The parameters of R7 that the spec leaves open, under the names of the table. -/
structure Params where
  /-- `CK16` -/
  ck : CkInstance
  /-- `CK_BASE`, u16 -/
  ckBase : Half
  /-- `ANGLE_MIN`, s16 -/
  angleMin : Int
  /-- `ANGLE_MAX`, s16 -/
  angleMax : Int
  /-- `DIR_CW`, u8 -/
  dirCw : Byte
  /-- `ENC_W`, bits of an encoder count -/
  encW : Nat
  /-- `CNT_W`, bits of `DB_CNT`, `PACE`, `TMO` -/
  cntW : Nat
  /-- `CAL_DUTY`, percent -/
  calDuty : Nat
  /-- `CAL_TOL`, encoder counts -/
  calTol : Nat
  /-- `CAL_STABLE_N` -/
  calStableN : Nat
  /-- `CAL_SETTLE_TICKS` -/
  calSettleTicks : Nat
  /-- `CAL_TIMEOUT_TICKS`; 0 means no limit -/
  calTimeoutTicks : Nat
  /-- `SEEK_TOL`, encoder counts -/
  seekTol : Nat
  /-- `SEEK_DUTY_MODE` -/
  seekDutyMode : DutyMode
  /-- `SEEK_DUTY`, percent -/
  seekDuty : Nat
  /-- `KP`, percent per encoder count -/
  kp : Nat
  /-- `DRIVE_TICKS` -/
  driveTicks : Nat
  /-- `STOP_TICKS` -/
  stopTicks : Nat
  /-- `SEEK_TIMEOUT_TICKS`; 0 means no limit -/
  seekTimeoutTicks : Nat
  deriving DecidableEq, Repr

/-- The default value of every parameter (R7). -/
def Params.default : Params where
  ck := .sum16
  ckBase := 0
  angleMin := -160
  angleMax := 25
  dirCw := 1
  encW := 32
  cntW := 32
  calDuty := 50
  calTol := 2
  calStableN := 10
  calSettleTicks := 100
  calTimeoutTicks := 0
  seekTol := 3
  seekDutyMode := .fixed
  seekDuty := 50
  kp := 1
  driveTicks := 5
  stopTicks := 5
  seekTimeoutTicks := 0

/-- The constraints of R7's table on the parameters. (`CK_BASE` is 0 for `SUM16`: `spec/40_checksum.md` R102.) -/
structure Params.Wf (p : Params) : Prop where
  ckBase_sum16 : p.ck = .sum16 → p.ckBase = 0
  angleMin_s16 : -32768 ≤ p.angleMin
  angle_order : p.angleMin ≤ p.angleMax
  angleMax_s16 : p.angleMax ≤ 32767
  encW_ge : 2 ≤ p.encW
  cntW_ge : 1 ≤ p.cntW
  calDuty_pos : 1 ≤ p.calDuty
  calDuty_le : p.calDuty ≤ 100
  calStableN_pos : 1 ≤ p.calStableN
  calStableN_lt : p.calStableN < 2 ^ p.cntW - 1
  calSettleTicks_pos : 1 ≤ p.calSettleTicks
  calSettleTicks_lt : p.calSettleTicks < 2 ^ p.cntW - 1
  calTimeoutTicks_lt : p.calTimeoutTicks < 2 ^ p.cntW - 1
  seekDuty_pos : 1 ≤ p.seekDuty
  seekDuty_le : p.seekDuty ≤ 100
  kp_pos : 1 ≤ p.kp
  driveTicks_pos : 1 ≤ p.driveTicks
  driveTicks_lt : p.driveTicks < 2 ^ p.cntW - 1
  stopTicks_pos : 1 ≤ p.stopTicks
  stopTicks_lt : p.stopTicks < 2 ^ p.cntW - 1
  seekTimeoutTicks_lt : p.seekTimeoutTicks < 2 ^ p.cntW - 1

/-- What the world puts on the input ports for ONE step (`spec/10_state.md` R38, the rows of direction "in"), and the
bytes `HOST` stores into the frame buffer before that step's clock edge (`spec/20_memory.md` R50, R58). -/
structure Drive where
  /-- `rst` -/
  rst : Bool
  /-- `tick`, raised by `TIME` -/
  tick : Bool
  /-- `dec_req` -/
  decReq : Bool
  /-- `frame_present` -/
  framePresent : Bool
  /-- `cal_req` -/
  calReq : Bool
  /-- `enc_pos`, supplied by `ENCSRC`; the port has `ENC_W` bits, so the step sees this value narrowed to them -/
  encPos : Int
  /-- `enc_payload` -/
  encPayload : BitVec 32
  /-- `enc_id` -/
  encId : Byte
  /-- `HOST`'s stores into `FB`, in order; none leaves `fb` as it stands -/
  fbWrites : List (Fin 12 × Byte)
  deriving DecidableEq, Repr, Inhabited

/-- No reset, no request, no tick, no store: every input low. -/
def Drive.quiet : Drive where
  rst := false
  tick := false
  decReq := false
  framePresent := false
  calReq := false
  encPos := 0
  encPayload := 0
  encId := 0
  fbWrites := []

/-- FREE VALUE (assumption log, entry 3): a function of byte lists for instance `other k`, about which nothing is known.
`Machine.ckFunction` takes it as that instance's checksum where it has CK-P3 (`spec/40_checksum.md` R100, R101;
`spec/93_implementation_defined.md` U2). -/
opaque otherCk16 : Nat → List Byte → Half

/-- FREE VALUE (assumption log, entry 1): the inputs of step number `n` when no input of that step has been scripted.
Every input is the world's to choose (`spec/00_scope.md` R8; `spec/20_memory.md` R63; U16). -/
opaque freeDrive : Nat → Drive

end Sys2Proof.Config
end

