-- ==== Sys2Proof/Syntax.lean ====
section
/-! DEFINITION. The eleven operations of the hardware (`spec/00_scope.md` R9; every row of `spec/opcode_table.json`), and
the fields of the one frame format `FRAME12` (`spec/30_encoding.md` R70, R71). -/

namespace Sys2Proof

/-- The fields of a frame that the opcode does not fix: payload, sequence count, checksum (R71). -/
structure FrameBody where
  /-- payload byte 0, `B[3]` -/
  p0 : Byte
  /-- payload byte 1, `B[4]` -/
  p1 : Byte
  /-- payload byte 2, `B[5]` -/
  p2 : Byte
  /-- payload byte 3, `B[6]` -/
  p3 : Byte
  /-- sequence count, `B[7]` -/
  count : Byte
  /-- checksum, `B[8]` low, `B[9]` high -/
  cks : Half
  deriving DecidableEq, Repr

/-- A frame by its fields (R71). -/
structure FrameView where
  /-- `F[15:0]` -/
  start : Half
  /-- the opcode, `F[23:16]` -/
  id : Byte
  /-- `F[79:24]` -/
  body : FrameBody
  /-- the `end` field, `F[95:80]` -/
  stop : Half
  deriving DecidableEq, Repr

/-- The five assigned command identifiers (R72). -/
inductive Command where
  | motor
  | motorangle
  | carhorn
  | carlight
  | carconfirmation
  deriving DecidableEq, Repr

/-- The eleven operations. A wire command carries every field of its frame that its opcode does not fix. A port operation
takes its operands from the input ports, except CKSUM, "a function on byte lists of any length" (`spec/10_state.md` R39),
and GOTOANGLE, whose operands arrive on the `angle_set` wires or are driven directly (`spec/43_angle_controller.md` R160). -/
inductive Instr where
  /-- MOTOR, id 1 (R131) -/
  | motor (b : FrameBody)
  /-- MOTORANGLE, id 2 (R133) -/
  | motorangle (b : FrameBody)
  /-- CARHORN, id 3 (R135) -/
  | carhorn (b : FrameBody)
  /-- CARLIGHT, id 4 (R137) -/
  | carlight (b : FrameBody)
  /-- CARCONFIRMATION, id 5 (R139) -/
  | carconfirmation (b : FrameBody)
  /-- CKSUM (R103) -/
  | cksum (bytes : List Byte)
  /-- ENCODE (R111), operands on `enc_payload`, `enc_id` -/
  | encode
  /-- DECODE (R114), operands `frame_present` and `FB` -/
  | decode
  /-- CALIBRATE (R152) -/
  | calibrate
  /-- GOTOANGLE (R160, R161) -/
  | gotoangle (angle : Half) (dir : Byte)
  /-- TICK (R165), operand on `enc_pos` -/
  | tick
  deriving DecidableEq, Repr

/-- The operation a wire command's frame stands for. -/
def Command.instr : Command → FrameBody → Instr
  | .motor, b => .motor b
  | .motorangle, b => .motorangle b
  | .carhorn, b => .carhorn b
  | .carlight, b => .carlight b
  | .carconfirmation, b => .carconfirmation b

end Sys2Proof
end

