-- ==== Sys2Proof/Machine/Operands.lean ====
section
/-! DEFINITION. Operand assembly from a frame's payload (`spec/30_encoding.md` R74, R76 to R82), the operands of the
ENCODE ports (`spec/41_packet_codec.md` R111), and the legality of each command's fields (`spec/42_commands.md`). -/

namespace Sys2Proof.Machine

open Sys2Proof.Config

/-- `{hi, lo}` of two bytes of a frame, the lower offset less significant (`spec/20_memory.md` R52). -/
def leHalf (lo hi : Byte) : Half := hi ++ lo

/-- `v[7:0]`, the byte at the lower offset (R52). -/
def loByte (v : Half) : Byte := v.extractLsb' 0 8

/-- `v[15:8]`, the byte at the higher offset (R52). -/
def hiByte (v : Half) : Byte := v.extractLsb' 8 8

/-- The six covered bytes in the order of R74: `p0, p1, p2, p3, id, count`. -/
def coveredBytes (id : Byte) (b : FrameBody) : List Byte :=
  [b.p0, b.p1, b.p2, b.p3, id, b.count]

/-- The MotorAngle angle as the 16 bits on the wire, `{p2, p1}` (R77). -/
def angleWord (b : FrameBody) : Half := leHalf b.p1 b.p2

/-- The MotorAngle angle, `signed({p2, p1})` (R77, R81). -/
def angleOperand (b : FrameBody) : Int := (angleWord b).toInt

/-- The CarHorn duration in seconds, `signed(p1)` (R78, R81). -/
def durationOperand (b : FrameBody) : Int := b.p1.toInt

/-- The horn's milliseconds, `dur * 1000`, on the u17 port (R135, R178 (c)). -/
def hornMs (b : FrameBody) : BitVec 17 := BitVec.ofInt 17 (durationOperand b * 1000)

/-- CarLight's channel, `p1[2:1]` (R137, R138). -/
def lightChannel (b : FrameBody) : BitVec 2 := b.p1.extractLsb' 1 2

/-- CarLight's `on`, `1 - p1[0]` (R137, R138). -/
def lightOn (b : FrameBody) : BitVec 1 := 1 - b.p1.extractLsb' 0 1

/-- MOTOR's motor id is legal: 1 or 2 (R76, R131). -/
def motorIdLegal (b : FrameBody) : Bool := b.p0 == 1 || b.p0 == 2

/-- MOTOR's speed is legal: at most 100, unsigned (R76, R131, R178 (b)). -/
def motorSpeedLegal (b : FrameBody) : Bool := decide (b.p1.toNat ≤ 100)

/-- MOTOR's direction is legal: 0 or 1 (R76, R131). -/
def motorDirLegal (b : FrameBody) : Bool := b.p2 == 0 || b.p2 == 1

/-- MOTORANGLE's angle is legal: from `ANGLE_MIN` to `ANGLE_MAX` inclusive, signed (R77, R133). -/
def angleLegal (p : Params) (b : FrameBody) : Bool :=
  decide (p.angleMin ≤ angleOperand b) && decide (angleOperand b ≤ p.angleMax)

/-- CARHORN's duration is legal: not negative (R78, R135). -/
def durationLegal (b : FrameBody) : Bool := decide (0 ≤ durationOperand b)

/-- CARLIGHT's code is legal: at most 7, unsigned (R79, R137). -/
def lightCodeLegal (b : FrameBody) : Bool := decide (b.p1.toNat ≤ 7)

/-- Payload byte `j` of the `enc_payload` port, bits 8j+7..8j (R111; `spec/10_state.md` R38). -/
def payloadByte (q : BitVec 32) (j : Nat) : Byte := q.extractLsb' (8 * j) 8

end Sys2Proof.Machine
end

