-- ==== Sys2Proof/Decode.lean ====
section
/-! DEFINITION. Decoding and encoding (`spec/30_encoding.md`). The five wire commands are selected by the markers and the
id byte of a frame (R71 to R73), the port operations by the request vector `Q` (R85). The decoder is total and rejects by
name; the encoder writes the frame or the vector of an operation that has one. -/

namespace Sys2Proof

open Sys2Proof.Config Sys2Proof.Machine

/-- The id byte of a command (R72). -/
def Command.id : Command → Byte
  | .motor => 1
  | .motorangle => 2
  | .carhorn => 3
  | .carlight => 4
  | .carconfirmation => 5

/-- The command an id byte selects; 0 and 6 to 255 select none (R72, R140). -/
def commandOfId (id : Byte) : Option Command :=
  if id = 1 then some .motor
  else if id = 2 then some .motorangle
  else if id = 3 then some .carhorn
  else if id = 4 then some .carlight
  else if id = 5 then some .carconfirmation
  else none

/-- What the masked bits of a frame (start, id, end) select (R73, R83). -/
inductive Selection where
  /-- `start` is not 0xAA55 or `end` is not 0x0D0A (R83 (b)) -/
  | badSentinel
  /-- good markers, an id that selects no command (R83 (d)) -/
  | unknownId
  /-- a row of the opcode table -/
  | command (c : Command)
  deriving DecidableEq, Repr

/-- The row a frame selects, if any (R73). -/
def select (v : FrameView) : Selection :=
  if v.start ≠ startMarker ∨ v.stop ≠ endMarker then .badSentinel
  else match commandOfId v.id with
    | some c => .command c
    | none => .unknownId

/-- A frame's fields from its bytes in wire order (R71); none if there are not twelve. -/
def frameOfBytes : List Byte → Option FrameView
  | [b0, b1, b2, b3, b4, b5, b6, b7, b8, b9, b10, b11] =>
    some ⟨leHalf b0 b1, b2, ⟨b3, b4, b5, b6, b7, leHalf b8 b9⟩, leHalf b10 b11⟩
  | _ => none

/-- A frame's bytes in wire order (R71; `spec/20_memory.md` R52, R53). -/
def frameToBytes (v : FrameView) : List Byte :=
  [loByte v.start, hiByte v.start, v.id, v.body.p0, v.body.p1, v.body.p2, v.body.p3, v.body.count,
    loByte v.body.cks, hiByte v.body.cks, loByte v.stop, hiByte v.stop]

/-- A frame as the u96 value `F`, byte k on bits 8k+7..8k (`spec/00_scope.md` R12; R71). -/
def frameToWord (v : FrameView) : BitVec 96 :=
  v.stop ++ v.body.cks ++ v.body.count ++ v.body.p3 ++ v.body.p2 ++ v.body.p1 ++ v.body.p0 ++ v.id ++ v.start

/-- Why bytes are no wire command. -/
inductive Reject where
  /-- there are not twelve bytes (R70, R84) -/
  | length
  /-- a marker is wrong (R83 (b)) -/
  | sentinel
  /-- the id byte is unassigned (R83 (d)) -/
  | unknownCommand (id : Byte)
  deriving DecidableEq, Repr

/-- The decoder of wire commands: total on any bytes, rejecting by name (R73). The checksum and the fields are no part of
the selection; the selected command's meaning checks them. -/
def decodeBytes (bytes : List Byte) : Except Reject Instr :=
  match frameOfBytes bytes with
  | none => .error .length
  | some v =>
    match select v with
    | .badSentinel => .error .sentinel
    | .unknownId => .error (.unknownCommand v.id)
    | .command c => .ok (c.instr v.body)

/-- The request vector `Q` as a u5, `rst` its most significant bit (R85). -/
def vectorOf (rst busy tick calReq decReq : Bool) : BitVec 5 :=
  BitVec.ofBool rst ++ BitVec.ofBool busy ++ BitVec.ofBool tick ++ BitVec.ofBool calReq ++ BitVec.ofBool decReq

/-- The operation a request vector selects (R85): CALIBRATE `00t1d`, DECODE `00t01`, TICK `011cd`. Under every other
vector no clocked operation is selected and only the combinational ones are, which are selected in every step: the decoder
answers ENCODE, the one of them that has ports (assumption log, entry 4). -/
def decodeVector (q : BitVec 5) : Instr :=
  if q.getLsbD 4 then .encode
  else if q.getLsbD 3 then (if q.getLsbD 2 then .tick else .encode)
  else if q.getLsbD 1 then .calibrate
  else if q.getLsbD 0 then .decode
  else .encode

/-- What an operation is written as: a frame, or a request vector. -/
inductive Encoding where
  | frame (bytes : List Byte)
  | vector (q : BitVec 5)
  deriving DecidableEq, Repr

/-- A command's frame: its markers, its id, the given body (R71). -/
def commandFrame (c : Command) (b : FrameBody) : FrameView := ⟨startMarker, c.id, b, endMarker⟩

/-- The encoder. The vectors have 0 at every bit that is not looked at. CKSUM and GOTOANGLE have no encoding of their own
(`spec/40_checksum.md` R103, `spec/43_angle_controller.md` R160). -/
def encode : Instr → Option Encoding
  | .motor b => some (.frame (frameToBytes (commandFrame .motor b)))
  | .motorangle b => some (.frame (frameToBytes (commandFrame .motorangle b)))
  | .carhorn b => some (.frame (frameToBytes (commandFrame .carhorn b)))
  | .carlight b => some (.frame (frameToBytes (commandFrame .carlight b)))
  | .carconfirmation b => some (.frame (frameToBytes (commandFrame .carconfirmation b)))
  | .cksum _ => none
  | .encode => some (.vector 0b00000)
  | .decode => some (.vector 0b00001)
  | .calibrate => some (.vector 0b00010)
  | .gotoangle _ _ => none
  | .tick => some (.vector 0b01100)

/-- The decoder of either kind of encoding. -/
def decode : Encoding → Except Reject Instr
  | .frame bytes => decodeBytes bytes
  | .vector q => .ok (decodeVector q)

/-- The `n` bytes of a word of the opcode table's numbering: byte k is bits 8k+7..8k (`spec/00_scope.md` R12). -/
def wordBytes (n w : Nat) : List Byte :=
  (List.range n).map fun k => BitVec.ofNat 8 (w >>> (8 * k))

/-- The instruction the decoder reads from a word numbered as `spec/opcode_table.json` numbers it: a row of 96 bits is a
frame, a row of one byte is a request vector whose three upper bits are 0 (R73, R85). -/
def decodeTableWord (nbits w : Nat) : Option Instr :=
  if nbits ≤ 8 then
    (if w < 32 then some (decodeVector (BitVec.ofNat 5 w)) else none)
  else
    match decodeBytes (wordBytes (nbits / 8) w) with
    | .ok i => some i
    | .error _ => none

end Sys2Proof
end

