-- ==== Sys2Proof/Machine/Checksum.lean ====
section
/-! DEFINITION. The checksum function `CK16`, the properties it must have, and its default instance `SUM16`
(`spec/40_checksum.md` R100 to R105). -/

namespace Sys2Proof.Machine

open Sys2Proof.Config

/-- `SUM16` (R102): the sum of the zero-extended bytes modulo 2^16, from 0, first byte to last. -/
def sum16 (bytes : List Byte) : Half :=
  bytes.foldl (fun acc b => acc + b.setWidth 16) 0

/-- The list `l` with bit `k` of byte `j` flipped. -/
def flipBit (l : List Byte) (j k : Nat) : List Byte := l.set j (l.getD j 0 ^^^ BitVec.twoPow 8 k)

/-- CK-P3 (R101): on six bytes the function tells any single-bit change. -/
def SingleBitSensitive (f : List Byte → Half) : Prop :=
  ∀ l : List Byte, l.length = 6 → ∀ j k : Nat, j < 6 → k < 8 → f (flipBit l j k) ≠ f l

/-- Every list of `n` bytes. -/
def byteLists : Nat → List (List Byte)
  | 0 => [[]]
  | n + 1 => (byteLists n).flatMap fun l => (List.range 256).map fun b => BitVec.ofNat 8 b :: l

/-- CK-P3 as a finite check. -/
def tellsSingleBits (f : List Byte → Half) : Bool :=
  (byteLists 6).all fun l => (List.range 6).all fun j => (List.range 8).all fun k => f (flipBit l j k) != f l

/-- The function of an instance of the parameter (R101, R105). An instance other than `SUM16` is a free function with
CK-P3: every free function that has CK-P3 is taken as it is, and one that has not is no `CK16`, so `SUM16` stands in its
place (assumption log, entry 3). -/
def ckFunction : CkInstance → List Byte → Half
  | .sum16 => sum16
  | .other k => if tellsSingleBits (otherCk16 k) then otherCk16 k else sum16

/-- `CK16` (R101), the parameter: total on every byte list; `CK_BASE` on the empty one (CK-P2). -/
def ck16 (p : Params) (bytes : List Byte) : Half :=
  match bytes with
  | [] => p.ckBase
  | b :: bs => ckFunction p.ck (b :: bs)

end Sys2Proof.Machine
end

