-- ==== Sys2Proof/Machine/State.lean ====
section
/-! DEFINITION. The state of the machine (`spec/10_state.md`), as plain data, and the reasons a step can stop. "All state
belongs to the angle controller": the registers are the record `Pac`. Beside them stand the frame buffer, which is
`HOST`'s (`spec/20_memory.md` R50), the levels on the ports in the last step (R38), and the model's own fields: the
sequence of call records (`spec/00_scope.md` R16), the scripted inputs, the step number and the parameters. -/

namespace Sys2Proof.Machine

open Sys2Proof.Config

/-- Why the machine stops with a fault. -/
inductive Fault where
  /-- An access to an address outside the frame buffer's 0 to 11. Raised by `memRead` only; no operation makes such an
  access (`spec/20_memory.md` R55), so no step raises it. Safe: the model stops where the hardware has no such access. -/
  | noSuchAddress (addr : Nat)
  deriving DecidableEq, Repr

/-- Why an operation is refused. -/
inductive Refusal where
  /-- No meaning yet. No arm of `exec` answers it. Safe. -/
  | notModelled (mnemonic : String)
  /-- GOTOANGLE driven directly at a busy controller: "A model that drives GOTOANGLE directly must refuse it in `CALIB`
  and `SEEK` (no step)" (`spec/43_angle_controller.md` R163). Raised by `execGotoangle` only, never by a step. Safe. -/
  | gotoWhileBusy
  deriving DecidableEq, Repr

/-- `CTL_STATE`, u2 (R25). -/
inductive CtlState where
  /-- `UNCAL` = 0 -/
  | uncal
  /-- `CALIB` = 1 -/
  | calib
  /-- `READY` = 2 -/
  | ready
  /-- `SEEK` = 3 -/
  | seek
  deriving DecidableEq, Repr

/-- `SUB`, u2, whose value 3 is never written (R26; U19 lets a model leave it out). -/
inductive Sub where
  /-- 0: `SWEEP_MIN` in `CALIB`, `SAMPLE` in `SEEK`; no meaning in an idle state -/
  | first
  /-- 1: `SETTLE` in `CALIB`, `DRIVE` in `SEEK` -/
  | second
  /-- 2: `SWEEP_MAX` in `CALIB`, `STOP` in `SEEK` -/
  | third
  deriving DecidableEq, Repr

/-- `CTL_STATUS`, u3, whose value 7 is never written (R28; U19). -/
inductive CtlStatus where
  /-- `NONE` = 0 -/
  | noneYet
  /-- `CAL_OK` = 1 -/
  | calOk
  /-- `SEEK_OK` = 2 -/
  | seekOk
  /-- `NOT_CALIBRATED` = 3 -/
  | notCalibrated
  /-- `RANGE_FAULT` = 4 -/
  | rangeFault
  /-- `CAL_TIMEOUT` = 5 -/
  | calTimeout
  /-- `SEEK_TIMEOUT` = 6 -/
  | seekTimeout
  deriving DecidableEq, Repr

/-- The result codes of DECODE, u8; 11 to 255 are never returned (`spec/60_exceptions.md` R190; U19). -/
inductive ResultCode where
  /-- 0 -/
  | ok
  /-- 1 `ERR_NULL` -/
  | errNull
  /-- 2 `ERR_SENTINEL` -/
  | errSentinel
  /-- 3 `ERR_CHECKSUM` -/
  | errChecksum
  /-- 4 `ERR_UNKNOWN_CMD` -/
  | errUnknownCmd
  /-- 5 `ERR_MOTOR_ID` -/
  | errMotorId
  /-- 6 `ERR_MOTOR_SPEED` -/
  | errMotorSpeed
  /-- 7 `ERR_MOTOR_DIR` -/
  | errMotorDir
  /-- 8 `ERR_ANGLE` -/
  | errAngle
  /-- 9 `ERR_HORN_DURATION` -/
  | errHornDuration
  /-- 10 `ERR_LIGHT_CODE` -/
  | errLightCode
  deriving DecidableEq, Repr

/-- One call of an actuator collaborator, with the widths of `spec/00_scope.md` R16. -/
inductive CallRecord where
  /-- `speed_set(motor_id u8, percent u8, direction u8)` -/
  | speedSet (motorId percent direction : Byte)
  /-- `angle_set(angle s16, direction u8)` -/
  | angleSet (angle : Half) (direction : Byte)
  /-- `horn_trigger(duration_ms u17)` -/
  | hornTrigger (ms : BitVec 17)
  /-- `light_set(channel u2, on u1)` -/
  | lightSet (channel : BitVec 2) (on : BitVec 1)
  deriving DecidableEq, Repr

/-- The registers of the block, all of them the angle controller's (R20, R21, R25, R26, R28, R31). Encoder counts are
`Int` and counters `Nat`; the operation that writes one narrows it to the register's width (`spec/00_scope.md` R10). -/
structure Pac where
  /-- `ENC_MIN`, s ENC_W -/
  encMin : Int
  /-- `ENC_MAX`, s ENC_W -/
  encMax : Int
  /-- `ENC_CENTER`, s ENC_W -/
  encCenter : Int
  /-- `TARGET`, s (ENC_W+1) -/
  target : Int
  /-- `DB_LAST`, s ENC_W -/
  dbLast : Int
  /-- `DB_VALID`, u1 -/
  dbValid : Bool
  /-- `DB_CNT`, u CNT_W -/
  dbCnt : Nat
  /-- `PACE`, u CNT_W -/
  pace : Nat
  /-- `TMO`, u CNT_W -/
  tmo : Nat
  /-- `CTL_STATE`, u2 -/
  ctlState : CtlState
  /-- `SUB`, u2 -/
  sub : Sub
  /-- `CTL_STATUS`, u3 -/
  ctlStatus : CtlStatus
  /-- `ACT_DUTY`, u7 -/
  actDuty : BitVec 7
  /-- `ACT_DIR`, u1: true is 1, clockwise -/
  actDir : Bool
  deriving DecidableEq, Repr

/-- The reset value of every register (R45). -/
def Pac.reset : Pac where
  encMin := 0
  encMax := 0
  encCenter := 0
  target := 0
  dbLast := 0
  dbValid := false
  dbCnt := 0
  pace := 0
  tmo := 0
  ctlState := .uncal
  sub := .first
  ctlStatus := .noneYet
  actDuty := 0
  actDir := false

/-- The frame buffer as a list of cells in canonical form: addresses strictly rising, none of a byte an unlisted address
reads as anyway. -/
abbrev Memory := List Host.Cell

/-- What a byte of the frame buffer that nothing has written reads as (assumption log, entry 5). -/
def unlistedByte : Byte := 0

/-- The canonical form of the frame buffer: addresses strictly rising and below 12, no byte that an unlisted address reads
as. -/
abbrev Memory.wf (m : Memory) : Prop :=
  m.Pairwise (fun c d => c.1 < d.1) ∧ ∀ c ∈ m, c.1 < frameBytes ∧ c.2 ≠ unlistedByte

/-- The levels on the input ports in the last step, `fb` apart (R38). -/
structure Ports where
  /-- `rst` -/
  rst : Bool
  /-- `tick` -/
  tick : Bool
  /-- `dec_req` -/
  decReq : Bool
  /-- `frame_present` -/
  framePresent : Bool
  /-- `cal_req` -/
  calReq : Bool
  /-- `enc_pos`, ENC_W bits, signed -/
  encPos : Int
  /-- `enc_payload` -/
  encPayload : BitVec 32
  /-- `enc_id` -/
  encId : Byte
  deriving DecidableEq, Repr

/-- Every input low. -/
def Ports.low : Ports where
  rst := false
  tick := false
  decReq := false
  framePresent := false
  calReq := false
  encPos := 0
  encPayload := 0
  encId := 0

/-- The outputs that are valid for one step only (R36, R38): the acknowledges, the result code (`result_valid` equals
`dec_ack`; the code is 0 when it is 0), and the one call port whose strobe is 1, with its arguments. -/
structure Strobes where
  /-- `dec_ack`, `result_valid` -/
  decAck : Bool
  /-- `cal_ack` -/
  calAck : Bool
  /-- `result_code` -/
  resultCode : ResultCode
  /-- the call record of this step, if there is one; the argument wires of a port whose strobe is 0 have no value -/
  call : Option CallRecord
  deriving DecidableEq, Repr

/-- No acknowledge, no result, no call. -/
def Strobes.low : Strobes where
  decAck := false
  calAck := false
  resultCode := .ok
  call := none

/-- The machine. -/
structure State where
  /-- every register (R21, R25, R26, R28, R31) -/
  pac : Pac
  /-- `FB`, the frame buffer (`spec/20_memory.md` R50), `HOST`'s to write -/
  fb : Memory
  /-- the input ports in the last step (R38) -/
  port : Ports
  /-- the one-step outputs of the last step (R36) -/
  strobes : Strobes
  /-- `enc_frame`, ENCODE's output frame `EF` (`spec/20_memory.md` R61) -/
  encFrame : BitVec 96
  /-- `enc_ck` -/
  encCk : Half
  /-- the MODEL's own: the value of the last CKSUM that was driven as an operation (R39, R103) -/
  ckResult : Half
  /-- the MODEL's own: the sequence of call records, oldest first (`spec/00_scope.md` R16) -/
  records : List CallRecord
  /-- the MODEL's own: the inputs of the coming steps, as far as they are scripted, next step first -/
  inbox : List Drive
  /-- the MODEL's own: how many steps have been taken, the argument of the free inputs -/
  stepNo : Nat
  /-- the parameters (R7), which nothing writes -/
  cfg : Params
  deriving DecidableEq, Repr

/-- The machine right after reset (R45; `spec/70_reset_and_hazards.md` R220, R221): every register at its reset value.
The ports are `HOST`'s: they stand low, and `enc_frame` and `enc_ck` are what ENCODE answers to low inputs; nothing has
been stored in the frame buffer, no input is scripted (assumption log, entries 5, 6, 7). -/
def State.reset : State where
  pac := Pac.reset
  fb := []
  port := Ports.low
  strobes := Strobes.low
  encFrame := 0x0D0A0001010000000000AA55
  encCk := 0x0001
  ckResult := 0
  records := []
  inbox := []
  stepNo := 0
  cfg := Params.default

end Sys2Proof.Machine
end

