-- ==== Sys2Proof/Machine/Flags.lean ====
section
/-! DEFINITION. There are no condition codes (`spec/10_state.md` R27). What the block has instead are two status outputs
derived from `CTL_STATE` and three coded registers or outputs; their numbers stand here. -/

namespace Sys2Proof.Machine

/-- `CTL_STATE` as the u2 on the `ctl_state` port (R25). -/
def CtlState.code : CtlState → BitVec 2
  | .uncal => 0
  | .calib => 1
  | .ready => 2
  | .seek => 3

/-- `SUB` as a u2 (R26). -/
def Sub.code : Sub → BitVec 2
  | .first => 0
  | .second => 1
  | .third => 2

/-- `CTL_STATUS` as the u3 on the `ctl_status` port (R28). -/
def CtlStatus.code : CtlStatus → BitVec 3
  | .noneYet => 0
  | .calOk => 1
  | .seekOk => 2
  | .notCalibrated => 3
  | .rangeFault => 4
  | .calTimeout => 5
  | .seekTimeout => 6

/-- A result code as the u8 on the `result_code` port (`spec/60_exceptions.md` R190). -/
def ResultCode.code : ResultCode → BitVec 8
  | .ok => 0
  | .errNull => 1
  | .errSentinel => 2
  | .errChecksum => 3
  | .errUnknownCmd => 4
  | .errMotorId => 5
  | .errMotorSpeed => 6
  | .errMotorDir => 7
  | .errAngle => 8
  | .errHornDuration => 9
  | .errLightCode => 10

/-- The classes of the source's taxonomy that are reported by a result code (`spec/60_exceptions.md` R191). -/
inductive FailureClass where
  /-- null or absent packet, or sentinel mismatch -/
  | frameError
  /-- checksum mismatch -/
  | integrityError
  /-- identifier not in the known set -/
  | unrecognizedCommand
  /-- an illegal field of a command -/
  | fieldError
  deriving DecidableEq, Repr

/-- The class of a result code, the "class" column of R190; success has none. -/
def ResultCode.failureClass : ResultCode → Option FailureClass
  | .ok => none
  | .errNull => some .frameError
  | .errSentinel => some .frameError
  | .errChecksum => some .integrityError
  | .errUnknownCmd => some .unrecognizedCommand
  | .errMotorId => some .fieldError
  | .errMotorSpeed => some .fieldError
  | .errMotorDir => some .fieldError
  | .errAngle => some .fieldError
  | .errHornDuration => some .fieldError
  | .errLightCode => some .fieldError

/-- `CTL_STATUS` reports an abnormal ending of a controller operation (`spec/60_exceptions.md` R193). -/
def CtlStatus.abnormal : CtlStatus → Bool
  | .noneYet => false
  | .calOk => false
  | .seekOk => false
  | .notCalibrated => true
  | .rangeFault => true
  | .calTimeout => true
  | .seekTimeout => true

/-- The `busy` output: bit 0 of `CTL_STATE` (R27). -/
def Pac.busy (r : Pac) : Bool := r.ctlState.code.getLsbD 0

/-- The `calibrated` output: `CTL_STATE` is `READY` or `SEEK` (R27). -/
def Pac.calibrated (r : Pac) : Bool :=
  match r.ctlState with
  | .ready => true
  | .seek => true
  | .uncal => false
  | .calib => false

/-- `CTL_STATE` with its bit 0 put to `b`: only for placing a request vector whose bit `busy` is `b` (R85). -/
def CtlState.withBusy (b : Bool) : CtlState → CtlState
  | .uncal => if b then .calib else .uncal
  | .calib => if b then .calib else .uncal
  | .ready => if b then .seek else .ready
  | .seek => if b then .seek else .ready

end Sys2Proof.Machine
end

