-- ==== Sys2Proof/Machine/Ops.lean ====
section
/-! DEFINITION. The shared operations: the arithmetic helpers of `spec/00_scope.md` R18 and the narrowing of a register
write (R10), the memory primitives (R13), ending a DECODE with a code or with a call (R15, R16), the checksum stage, the
combinational ENCODE outputs, and the latching of the ports at a clock edge (`spec/10_state.md` R36). -/

namespace Sys2Proof.Machine

open Sys2Proof.Config

/-! ### Arithmetic (R18, R10) -/

/-- `tdiv(a, b)`: division rounded toward zero (R18). -/
def tdiv (a b : Int) : Int := Int.tdiv a b

/-- `clamp(v, lo, hi)` (R18). -/
def clampInt (v lo hi : Int) : Int := if v < lo then lo else if v > hi then hi else v

/-- A write of `v` to a signed register of `w` bits, two's complement (R10). `spec/10_state.md` R21: no write of any rule
overflows, so on the values the rules write this is `v`. -/
def narrowS (w : Nat) (v : Int) : Int := Int.bmod v (2 ^ w)

/-- A write of `v` to an unsigned register of `w` bits (R10). -/
def narrowU (w v : Nat) : Nat := v % 2 ^ w

/-- `v` is a value of a signed register of `w` bits. -/
def FitsS (w : Nat) (v : Int) : Prop := -(2 ^ (w - 1) : Int) ≤ v ∧ v < (2 ^ (w - 1) : Int)

/-- A write of a duty cycle in percent to `ACT_DUTY`, u7 (`spec/10_state.md` R31). -/
def dutyBits (d : Nat) : BitVec 7 := BitVec.ofNat 7 d

/-! ### The frame buffer (R13; `spec/20_memory.md` R50 to R56) -/

/-- One byte of the frame buffer. -/
def Memory.get : Memory → Nat → Byte
  | [], _ => unlistedByte
  | c :: m, a => if c.1 = a then c.2 else Memory.get m a

/-- `HOST` stores one byte; the canonical form is kept. -/
def Memory.set (a : Nat) (b : Byte) : Memory → Memory
  | [] => if b = unlistedByte then [] else [(a, b)]
  | c :: m =>
    if a < c.1 then (if b = unlistedByte then c :: m else (a, b) :: c :: m)
    else if c.1 = a then (if b = unlistedByte then m else (a, b) :: m)
    else c :: Memory.set a b m

/-- `HOST`'s stores of one step, in order (R50, R58). -/
def Memory.setAll (m : Memory) (ws : List (Fin 12 × Byte)) : Memory :=
  ws.foldl (fun m w => Memory.set w.1.val w.2 m) m

/-- `MemRead(off, 1)` (R13). -/
def memRead1 (m : Memory) (off : Nat) : Except Fault Byte :=
  if off < frameBytes then .ok (m.get off) else .error (.noSuchAddress off)

/-- `MemRead(off, 2)`, little-endian (R13; `spec/20_memory.md` R52). -/
def memRead2 (m : Memory) (off : Nat) : Except Fault Half :=
  if off + 1 < frameBytes then .ok (leHalf (m.get off) (m.get (off + 1))) else .error (.noSuchAddress (off + 1))

/-- DECODE's reads of the frame buffer: every field at its fixed offset (`spec/20_memory.md` R51, R56). -/
def readFrame (m : Memory) : Except Fault FrameView := do
  let start ← memRead2 m 0
  let id ← memRead1 m 2
  let p0 ← memRead1 m 3
  let p1 ← memRead1 m 4
  let p2 ← memRead1 m 5
  let p3 ← memRead1 m 6
  let count ← memRead1 m 7
  let cks ← memRead2 m 8
  let stop ← memRead2 m 10
  return ⟨start, id, ⟨p0, p1, p2, p3, count, cks⟩, stop⟩

/-- The frame that stands in the buffer, by its fields. -/
def Memory.frame (m : Memory) : FrameView :=
  ⟨leHalf (m.get 0) (m.get 1), m.get 2, ⟨m.get 3, m.get 4, m.get 5, m.get 6, m.get 7, leHalf (m.get 8) (m.get 9)⟩,
    leHalf (m.get 10) (m.get 11)⟩

/-- The frame buffer's twelve bytes in wire order. -/
def Memory.bytes (m : Memory) : List Byte := (List.range 12).map m.get

/-- The stores that put twelve bytes into the buffer, byte k at offset k. -/
def storesOf (bytes : List Byte) : List (Fin 12 × Byte) :=
  (List.finRange 12).map fun k => (k, bytes.getD k.val unlistedByte)

/-! ### Updates of the state -/

/-- New registers. -/
def State.setPac (s : State) (r : Pac) : State := { s with pac := r }

/-- New one-step outputs. -/
def State.setStrobes (s : State) (q : Strobes) : State := { s with strobes := q }

/-- One more call record (`spec/00_scope.md` R16). -/
def State.record (s : State) (r : CallRecord) : State := { s with records := s.records ++ [r] }

/-- New ENCODE outputs. -/
def State.setEncOut (s : State) (f : BitVec 96) (ck : Half) : State := { s with encFrame := f, encCk := ck }

/-- A new value of a CKSUM driven as an operation. -/
def State.setCkResult (s : State) (ck : Half) : State := { s with ckResult := ck }

/-! ### How a DECODE ends: the block's exceptions (`spec/60_exceptions.md`) -/

/-- `raise RC(code)` (R15; `spec/60_exceptions.md` R196), the one way DECODE reports a failure: the code on the
output for this step, no call record, no register changed, nothing saved, no transfer of control. There is no operation
that returns from it (R197): the next step is an ordinary step. -/
def raiseRC (c : ResultCode) (s : State) : Host.Outcome State Fault Refusal :=
  .next (s.setStrobes { decAck := true, calAck := false, resultCode := c, call := none })

/-- `return RC(0)` without a call (R15; `spec/42_commands.md` R139). -/
def returnOk (s : State) : State :=
  s.setStrobes { decAck := true, calAck := false, resultCode := .ok, call := none }

/-- `call name(args)` followed by `return RC(0)` (R15, R16; `spec/42_commands.md` R130). -/
def callAndReturn (r : CallRecord) (s : State) : State :=
  (s.setStrobes { decAck := true, calAck := false, resultCode := .ok, call := some r }).record r

/-- A request that is not served in this step: no acknowledge, nothing changes (`spec/10_state.md` R40, R41). -/
def unserved (s : State) : Host.Outcome State Fault Refusal := .next (s.setStrobes Strobes.low)

/-- What only an idle block does; a busy one does not serve it (`spec/10_state.md` R40; `spec/41_packet_codec.md`
R122). -/
def whenIdle (s : State) (k : State → Host.Outcome State Fault Refusal) : Host.Outcome State Fault Refusal :=
  if s.pac.busy then unserved s else k s

/-- Stage 3 of DECODE, integrity (`spec/41_packet_codec.md` R114, R117): go on only if `CK16` of the six covered bytes is
the `cks` field. -/
def checksumStage (id : Byte) (b : FrameBody) (s : State) (k : State → Host.Outcome State Fault Refusal) :
    Host.Outcome State Fault Refusal :=
  if ck16 s.cfg (coveredBytes id b) ≠ b.cks then raiseRC .errChecksum s else k s

/-! ### ENCODE's outputs (`spec/41_packet_codec.md` R111) -/

/-- ENCODE's body: the payload verbatim, the sequence count 1, the checksum over both and the id. -/
def encodeBody (p : Params) (payload : BitVec 32) (id : Byte) : FrameBody :=
  let q0 := payloadByte payload 0
  let q1 := payloadByte payload 1
  let q2 := payloadByte payload 2
  let q3 := payloadByte payload 3
  ⟨q0, q1, q2, q3, seqCount, ck16 p [q0, q1, q2, q3, id, seqCount]⟩

/-- ENCODE's frame `EF`. -/
def encodeFrame (p : Params) (payload : BitVec 32) (id : Byte) : FrameView :=
  ⟨startMarker, id, encodeBody p payload id, endMarker⟩

/-- The combinational outputs follow their inputs (`spec/10_state.md` R40). -/
def State.followEncode (s : State) : State :=
  s.setEncOut (frameToWord (encodeFrame s.cfg s.port.encPayload s.port.encId))
    (encodeBody s.cfg s.port.encPayload s.port.encId).cks

/-! ### The ports at a clock edge (`spec/10_state.md` R36, R38) -/

/-- The inputs of the coming step: the next scripted ones, or free ones (`spec/00_scope.md` R8; U16). -/
def State.nextDrive (s : State) : Drive :=
  match s.inbox with
  | [] => freeDrive s.stepNo
  | d :: _ => d

/-- The levels a drive puts on the input ports; `enc_pos` has `ENC_W` bits (R38). -/
def Drive.levels (p : Params) (d : Drive) : Ports where
  rst := d.rst
  tick := d.tick
  decReq := d.decReq
  framePresent := d.framePresent
  calReq := d.calReq
  encPos := narrowS p.encW d.encPos
  encPayload := d.encPayload
  encId := d.encId

/-- The inputs are sampled: `HOST`'s stores stand in the buffer, the levels on the ports, and the one-step outputs are low
until an operation raises them. -/
def State.sample (s : State) : State :=
  { s with
    fb := s.fb.setAll s.nextDrive.fbWrites
    port := Drive.levels s.cfg s.nextDrive
    strobes := Strobes.low
    inbox := s.inbox.tail
    stepNo := s.stepNo + 1 }

/-- The state in which the operation of a step runs: inputs sampled, ENCODE's outputs following them (R36, R40). -/
def State.latch (s : State) : State := s.sample.followEncode

/-- The request vector `Q` = rst, busy, tick, cal_req, dec_req (`spec/30_encoding.md` R85). -/
def State.requestVector (s : State) : BitVec 5 :=
  vectorOf s.port.rst s.pac.busy s.port.tick s.port.calReq s.port.decReq

/-- RESET (`spec/70_reset_and_hazards.md` R220, R221): every register its reset value, no acknowledge, no call; the
parameters, the frame buffer and everything outside the block stay. -/
def State.resetRegs (s : State) : State := (s.setPac Pac.reset).setStrobes Strobes.low

/-! ### Placing an instruction where the next step takes it -/

/-- The inputs that raise the requests of a vector (R85); bit 3, `busy`, is no input. -/
def vectorDrive (q : BitVec 5) : Drive :=
  { Drive.quiet with
    rst := q.getLsbD 4
    tick := q.getLsbD 2
    calReq := q.getLsbD 1
    decReq := q.getLsbD 0 }

/-- The inputs of a step in which `HOST` presents these twelve bytes and asks for one DECODE. -/
def frameDrive (bytes : List Byte) : Drive :=
  { Drive.quiet with
    decReq := true
    framePresent := true
    fbWrites := storesOf bytes }

end Sys2Proof.Machine
end

