-- ==== Sys2Proof/Machine/Controller.lean ====
section
/-! DEFINITION. The proportional angle controller (`spec/43_angle_controller.md`): CALIBRATE, GOTOANGLE, TICK. Each rule's
pseudocode is one function from the registers to the registers; every register it does not write it keeps, and every read
sees the value from before the step (`spec/00_scope.md` R14). The three meanings at the end put them into a step. -/

namespace Sys2Proof.Machine

open Sys2Proof.Config

/-! ### The time limits (R166, R170, R174, R175) -/

/-- A time limit of `limit` ticks is not 0 and this tick is past it. -/
def limitPassed (limit tmo : Nat) : Bool := limit != 0 && decide (tmo + 1 > limit)

/-- `TMO` after a tick that counts toward `limit`: counted only when the limit is not 0. -/
def tmoAfter (p : Params) (limit tmo : Nat) : Nat := if limit != 0 then narrowU p.cntW (tmo + 1) else tmo

/-! ### CALIBRATE (R152) -/

/-- The register writes of CALIBRATE. -/
def Pac.calibrate (p : Params) (r : Pac) : Pac :=
  { r with
    ctlState := .calib
    sub := .first
    dbValid := false
    dbCnt := 0
    pace := 0
    tmo := 0
    actDir := false
    actDuty := dutyBits p.calDuty
    ctlStatus := .noneYet }

/-! ### GOTOANGLE (R160 to R163) -/

/-- The term `half` of R160: multiply, divide by 2, divide by 90, each division toward zero. -/
def halfTerm (encMin encMax : Int) (angle : Half) : Int :=
  tdiv (tdiv (clampInt angle.toInt clampLo clampHi * (encMax - encMin)) 2) 90

/-- The target of R160: clockwise adds, every other direction subtracts. -/
def targetOf (p : Params) (r : Pac) (angle : Half) (dir : Byte) : Int :=
  if dir = p.dirCw then r.encCenter + halfTerm r.encMin r.encMax angle
  else r.encCenter - halfTerm r.encMin r.encMax angle

/-- GOTOANGLE on the registers: a seek starts in `READY` (R160), the request is refused with a status in `UNCAL` (R161),
and there is no step in `CALIB` and `SEEK` (R163). -/
def Pac.gotoAngle (p : Params) (angle : Half) (dir : Byte) (r : Pac) : Option Pac :=
  match r.ctlState with
  | .ready =>
    some { r with
      target := narrowS (p.encW + 1) (targetOf p r angle dir)
      ctlState := .seek
      sub := .first
      pace := 0
      tmo := 0
      ctlStatus := .noneYet }
  | .uncal => some { r with ctlStatus := .notCalibrated }
  | .calib => none
  | .seek => none

/-! ### TICK in a calibration (R166, R167, R169, R176) -/

/-- LIMIT_FOUND (R167): motion stops; the first sweep records `ENC_MIN`, the second `ENC_MAX` and `ENC_CENTER`. -/
def Pac.limitFound (p : Params) (e : Int) (r : Pac) : Pac :=
  if r.sub = .first then
    { r with
      actDuty := 0
      dbValid := false
      dbCnt := 0
      tmo := 0
      pace := 0
      encMin := narrowS p.encW e
      sub := .second }
  else
    { r with
      actDuty := 0
      dbValid := false
      dbCnt := 0
      tmo := 0
      pace := 0
      encMax := narrowS p.encW e
      encCenter := narrowS p.encW (tdiv (r.encMin + e) 2)
      ctlState := .ready
      sub := .first
      ctlStatus := .calOk }

/-- CAL_ABORT (R169). -/
def Pac.calAbort (r : Pac) : Pac :=
  { r with
    actDuty := 0
    dbValid := false
    dbCnt := 0
    tmo := 0
    pace := 0
    ctlState := .uncal
    sub := .first
    ctlStatus := .calTimeout }

/-- The match counter after a sample `e` (R166): one more if a sample of this sweep came before it and the two differ by
at most `CAL_TOL`, else 0. -/
def matchCount (p : Params) (e : Int) (r : Pac) : Nat :=
  if r.dbValid = true ∧ (e - r.dbLast).natAbs ≤ p.calTol then r.dbCnt + 1 else 0

/-- SWEEP (R166), the debounced limit detector. -/
def Pac.sweep (p : Params) (e : Int) (r : Pac) : Pac :=
  if limitPassed p.calTimeoutTicks r.tmo then r.calAbort
  else if matchCount p e r ≥ p.calStableN then r.limitFound p e
  else
    { r with
      dbLast := narrowS p.encW e
      dbValid := true
      dbCnt := narrowU p.cntW (matchCount p e r)
      tmo := tmoAfter p p.calTimeoutTicks r.tmo }

/-- SETTLE (R176). -/
def Pac.settle (p : Params) (r : Pac) : Pac :=
  if r.pace + 1 ≥ p.calSettleTicks then
    { r with
      sub := .third
      actDir := true
      actDuty := dutyBits p.calDuty
      pace := 0 }
  else { r with pace := narrowU p.cntW (r.pace + 1) }

/-! ### TICK in a seek (R170 to R175) -/

/-- SEEK_END (R170). -/
def Pac.seekEnd (st : CtlStatus) (r : Pac) : Pac :=
  { r with
    actDuty := 0
    ctlState := .ready
    sub := .first
    pace := 0
    tmo := 0
    ctlStatus := st }

/-- DUTY (R173): `SEEK_DUTY`, or `min(100, KP * m)` evaluated exactly and then capped. -/
def seekDutyOf (p : Params) (m : Nat) : Nat :=
  match p.seekDutyMode with
  | .fixed => p.seekDuty
  | .proportional => min 100 (p.kp * m)

/-- SAMPLE (R170): time limit, then range, then tolerance, then drive toward the target. -/
def Pac.sample (p : Params) (e : Int) (r : Pac) : Pac :=
  if limitPassed p.seekTimeoutTicks r.tmo then r.seekEnd .seekTimeout
  else if r.target < r.encMin ∨ r.target > r.encMax then r.seekEnd .rangeFault
  else if (e - r.target).natAbs ≤ p.seekTol then r.seekEnd .seekOk
  else
    { r with
      actDir := decide (e - r.target < 0)
      actDuty := dutyBits (seekDutyOf p (e - r.target).natAbs)
      sub := .second
      pace := 0
      tmo := tmoAfter p p.seekTimeoutTicks r.tmo }

/-- DRIVE (R174). -/
def Pac.drive (p : Params) (r : Pac) : Pac :=
  if limitPassed p.seekTimeoutTicks r.tmo then r.seekEnd .seekTimeout
  else if r.pace + 1 ≥ p.driveTicks then
    { r with
      actDuty := 0
      sub := .third
      pace := 0
      tmo := tmoAfter p p.seekTimeoutTicks r.tmo }
  else
    { r with
      pace := narrowU p.cntW (r.pace + 1)
      tmo := tmoAfter p p.seekTimeoutTicks r.tmo }

/-- STOP (R174). -/
def Pac.stop (p : Params) (r : Pac) : Pac :=
  if limitPassed p.seekTimeoutTicks r.tmo then r.seekEnd .seekTimeout
  else if r.pace + 1 ≥ p.stopTicks then
    { r with
      sub := .first
      pace := 0
      tmo := tmoAfter p p.seekTimeoutTicks r.tmo }
  else
    { r with
      pace := narrowU p.cntW (r.pace + 1)
      tmo := tmoAfter p p.seekTimeoutTicks r.tmo }

/-! ### TICK (R165) -/

/-- TICK on the registers: a dispatch on `CTL_STATE` and `SUB`. In an idle state there is no TICK (`spec/10_state.md`
R40). -/
def Pac.tick (p : Params) (e : Int) (r : Pac) : Pac :=
  match r.ctlState, r.sub with
  | .calib, .first => r.sweep p e
  | .calib, .second => r.settle p
  | .calib, .third => r.sweep p e
  | .seek, .first => r.sample p e
  | .seek, .second => r.drive p
  | .seek, .third => r.stop p
  | .uncal, _ => r
  | .ready, _ => r

/-! ### The meanings -/

/-- CALIBRATE (R152), with its acknowledge. A busy block does not serve it (`spec/10_state.md` R40). -/
def execCalibrate (s : State) : Host.Outcome State Fault Refusal :=
  whenIdle s fun s =>
    .next ((s.setPac (s.pac.calibrate s.cfg)).setStrobes { Strobes.low with calAck := true })

/-- GOTOANGLE (R160, R161) driven directly; refused in `CALIB` and `SEEK`, where there is no step (R163). It has no
acknowledge and no record of its own. -/
def execGotoangle (angle : Half) (dir : Byte) (s : State) : Host.Outcome State Fault Refusal :=
  match s.pac.gotoAngle s.cfg angle dir with
  | some r => .next (s.setPac r)
  | none => .refused .gotoWhileBusy

/-- TICK (R165), reading `enc_pos` only in the arms that name it. In an idle state `tick` is ignored
(`spec/10_state.md` R40). -/
def execTick (s : State) : Host.Outcome State Fault Refusal :=
  .next ((s.setPac (s.pac.tick s.cfg s.port.encPos)).setStrobes Strobes.low)

end Sys2Proof.Machine
end

