-- ==== Sys2Proof/Machine/Commands.lean ====
section
/-! DEFINITION. The five wire commands (`spec/42_commands.md`): stages 3 to 5 of DECODE for a frame whose start, id and end
select the command (`spec/30_encoding.md` R73: selected by those bits, executed only if the checksum stage and the field
checks pass too). Each command's field checks and its call are the function named `…Stages`, which is its pseudocode. -/

namespace Sys2Proof.Machine

open Sys2Proof.Config

/-- MOTOR's checks in the order id, speed, direction, then its call (R131, R132). -/
def motorStages (b : FrameBody) (s : State) : Host.Outcome State Fault Refusal :=
  if motorIdLegal b = false then raiseRC .errMotorId s
  else if motorSpeedLegal b = false then raiseRC .errMotorSpeed s
  else if motorDirLegal b = false then raiseRC .errMotorDir s
  else .next (callAndReturn (.speedSet b.p0 b.p1 b.p2) s)

/-- MOTORANGLE's check, then its call, which is the same event as GOTOANGLE (R133). -/
def motorangleStages (b : FrameBody) (s : State) : Host.Outcome State Fault Refusal :=
  if angleLegal s.cfg b = false then raiseRC .errAngle s
  else
    match s.pac.gotoAngle s.cfg (angleWord b) b.p3 with
    | some r => .next ((callAndReturn (.angleSet (angleWord b) b.p3) s).setPac r)
    | none => .refused .gotoWhileBusy

/-- CARHORN's check, then its call (R135). -/
def carhornStages (b : FrameBody) (s : State) : Host.Outcome State Fault Refusal :=
  if durationLegal b = false then raiseRC .errHornDuration s
  else .next (callAndReturn (.hornTrigger (hornMs b)) s)

/-- CARLIGHT's check, then its call (R137, R138). -/
def carlightStages (b : FrameBody) (s : State) : Host.Outcome State Fault Refusal :=
  if lightCodeLegal b = false then raiseRC .errLightCode s
  else .next (callAndReturn (.lightSet (lightChannel b) (lightOn b)) s)

/-- MOTOR (R131). -/
def execMotor (b : FrameBody) (s : State) : Host.Outcome State Fault Refusal :=
  whenIdle s fun s => checksumStage 1 b s (motorStages b)

/-- MOTORANGLE (R133). -/
def execMotorangle (b : FrameBody) (s : State) : Host.Outcome State Fault Refusal :=
  whenIdle s fun s => checksumStage 2 b s (motorangleStages b)

/-- CARHORN (R135). -/
def execCarhorn (b : FrameBody) (s : State) : Host.Outcome State Fault Refusal :=
  whenIdle s fun s => checksumStage 3 b s (carhornStages b)

/-- CARLIGHT (R137). -/
def execCarlight (b : FrameBody) (s : State) : Host.Outcome State Fault Refusal :=
  whenIdle s fun s => checksumStage 4 b s (carlightStages b)

/-- CARCONFIRMATION (R139): no check of its own, no call. -/
def execCarconfirmation (b : FrameBody) (s : State) : Host.Outcome State Fault Refusal :=
  whenIdle s fun s => checksumStage 5 b s fun s => .next (returnOk s)

end Sys2Proof.Machine
end

