-- ==== Sys2Proof/Machine/Codec.lean ====
section
/-! DEFINITION. The checksum and the packet codec as operations: CKSUM (`spec/40_checksum.md` R103), ENCODE
(`spec/41_packet_codec.md` R111) and DECODE (R114). -/

namespace Sys2Proof.Machine

open Sys2Proof.Config

/-- CKSUM (R103). It reads and writes no register; its value is shown in the model's own field `ckResult`. -/
def execCksum (bytes : List Byte) (s : State) : Host.Outcome State Fault Refusal :=
  .next (s.setCkResult (ck16 s.cfg bytes))

/-- ENCODE (R111): `enc_frame` and `enc_ck` from `enc_payload` and `enc_id`; it validates nothing (R112). -/
def execEncode (s : State) : Host.Outcome State Fault Refusal := .next s.followEncode

/-- The rule of the selected command (R114, stages 3 to 5). -/
def runCommand (c : Command) (b : FrameBody) (s : State) : Host.Outcome State Fault Refusal :=
  match c with
  | .motor => execMotor b s
  | .motorangle => execMotorangle b s
  | .carhorn => execCarhorn b s
  | .carlight => execCarlight b s
  | .carconfirmation => execCarconfirmation b s

/-- Stages 2 to 5 of DECODE on the fields of the frame (R114, R116 to R118). -/
def decodeStages (v : FrameView) (s : State) : Host.Outcome State Fault Refusal :=
  match select v with
  | .badSentinel => raiseRC .errSentinel s
  | .unknownId => checksumStage v.id v.body s (raiseRC .errUnknownCmd)
  | .command c => runCommand c v.body s

/-- DECODE (R114): absence first (R115), without a read of the buffer; then the frame. A busy block does not serve it
(R122). -/
def execDecode (s : State) : Host.Outcome State Fault Refusal :=
  whenIdle s fun s =>
    if s.port.framePresent = false then raiseRC .errNull s
    else
      match readFrame s.fb with
      | .error f => .fault f
      | .ok v => decodeStages v s

end Sys2Proof.Machine
end

