-- ==== Sys2Proof/Machine/Dispatch.lean ====
section
/-! DEFINITION. One arm per operation (`spec/00_scope.md` R9). -/

namespace Sys2Proof.Machine

def exec (i : Instr) (s : State) : Host.Outcome State Fault Refusal :=
  match i with
  | .motor b => Sys2Proof.Machine.execMotor b s
  | .motorangle b => Sys2Proof.Machine.execMotorangle b s
  | .carhorn b => Sys2Proof.Machine.execCarhorn b s
  | .carlight b => Sys2Proof.Machine.execCarlight b s
  | .carconfirmation b => Sys2Proof.Machine.execCarconfirmation b s
  | .cksum bytes => Sys2Proof.Machine.execCksum bytes s
  | .encode => Sys2Proof.Machine.execEncode s
  | .decode => Sys2Proof.Machine.execDecode s
  | .calibrate => Sys2Proof.Machine.execCalibrate s
  | .gotoangle angle dir => Sys2Proof.Machine.execGotoangle angle dir s
  | .tick => Sys2Proof.Machine.execTick s

end Sys2Proof.Machine
end

