-- ==== Sys2Proof/Machine/Step.lean ====
section
/-! DEFINITION. One step, one rising edge of `clk` (`spec/10_state.md` R36, R40). -/

namespace Sys2Proof.Machine

open Sys2Proof.Config

/-- The choice of R40 on sampled inputs: reset wins over everything; else the request vector selects the operation. -/
def clocked (s : State) : Host.Outcome State Fault Refusal :=
  if s.port.rst then .next s.resetRegs else exec (decodeVector s.requestVector) s

/-- The step: the inputs are sampled and ENCODE's outputs follow them, then the one operation of R40 runs. -/
def step (s : State) : Host.Outcome State Fault Refusal := clocked s.latch

/-- The instruction of a table word, placed where the next step takes it. A request vector goes onto the request inputs of
the next step, and its bit `busy` into bit 0 of `CTL_STATE`; a frame is stored into the buffer by `HOST` before the next
edge, with `dec_req` and `frame_present` raised, and the block idle (assumption log, entry 8). -/
def State.withFetchWord (s : State) (nbits w : Nat) : State :=
  if nbits ≤ 8 then
    { s with
      inbox := vectorDrive (BitVec.ofNat 5 w) :: s.inbox
      pac := { s.pac with ctlState := s.pac.ctlState.withBusy ((BitVec.ofNat 5 w).getLsbD 3) } }
  else
    { s with
      inbox := frameDrive (wordBytes 12 w) :: s.inbox
      pac := { s.pac with ctlState := s.pac.ctlState.withBusy false } }

end Sys2Proof.Machine
end

