-- ==== Sys2Proof/Machine/Ports.lean ====
section
/-! DEFINITION. The output ports as the port table shows them (`spec/10_state.md` R38): which of them are registers, which
are functions of the step (R36), which are derived (R27). -/

namespace Sys2Proof.Machine

/-- The output ports of R38. A call port's arguments exist only in a step in which its strobe is 1. -/
structure OutputPorts where
  /-- `dec_ack` -/
  decAck : Bool
  /-- `result_valid` -/
  resultValid : Bool
  /-- `result_code` -/
  resultCode : BitVec 8
  /-- `cal_ack` -/
  calAck : Bool
  /-- `speed_set_stb`, and `speed_set_id`, `speed_set_pct`, `speed_set_dir` -/
  speedSet : Option (Byte × Byte × Byte)
  /-- `angle_set_stb`, and `angle_set_angle`, `angle_set_dir` -/
  angleSet : Option (Half × Byte)
  /-- `horn_stb`, and `horn_ms` -/
  horn : Option (BitVec 17)
  /-- `light_stb`, and `light_ch`, `light_on` -/
  light : Option (BitVec 2 × BitVec 1)
  /-- `enc_frame` -/
  encFrame : BitVec 96
  /-- `enc_ck` -/
  encCk : Half
  /-- `busy` -/
  busy : Bool
  /-- `calibrated` -/
  calibrated : Bool
  /-- `ctl_state` -/
  ctlState : BitVec 2
  /-- `ctl_status` -/
  ctlStatus : BitVec 3
  /-- `act_duty` -/
  actDuty : BitVec 7
  /-- `act_dir` -/
  actDir : BitVec 1
  deriving DecidableEq, Repr

/-- The `speed_set` port of a call. -/
def CallRecord.speedSet? : CallRecord → Option (Byte × Byte × Byte)
  | .speedSet m p d => some (m, p, d)
  | .angleSet _ _ => none
  | .hornTrigger _ => none
  | .lightSet _ _ => none

/-- The `angle_set` port of a call. -/
def CallRecord.angleSet? : CallRecord → Option (Half × Byte)
  | .speedSet _ _ _ => none
  | .angleSet a d => some (a, d)
  | .hornTrigger _ => none
  | .lightSet _ _ => none

/-- The `horn_trigger` port of a call. -/
def CallRecord.horn? : CallRecord → Option (BitVec 17)
  | .speedSet _ _ _ => none
  | .angleSet _ _ => none
  | .hornTrigger ms => some ms
  | .lightSet _ _ => none

/-- The `light_set` port of a call. -/
def CallRecord.light? : CallRecord → Option (BitVec 2 × BitVec 1)
  | .speedSet _ _ _ => none
  | .angleSet _ _ => none
  | .hornTrigger _ => none
  | .lightSet c o => some (c, o)

/-- What stands on the output ports (R38). -/
def State.outputs (s : State) : OutputPorts where
  decAck := s.strobes.decAck
  resultValid := s.strobes.decAck
  resultCode := s.strobes.resultCode.code
  calAck := s.strobes.calAck
  speedSet := s.strobes.call.bind CallRecord.speedSet?
  angleSet := s.strobes.call.bind CallRecord.angleSet?
  horn := s.strobes.call.bind CallRecord.horn?
  light := s.strobes.call.bind CallRecord.light?
  encFrame := s.encFrame
  encCk := s.encCk
  busy := s.pac.busy
  calibrated := s.pac.calibrated
  ctlState := s.pac.ctlState.code
  ctlStatus := s.pac.ctlStatus.code
  actDuty := s.pac.actDuty
  actDir := BitVec.ofBool s.pac.actDir

end Sys2Proof.Machine
end

