-- ==== Sys2Proof/WellFormed.lean ====
section
/-! DEFINITION. When a term of `Instr` is well formed under given parameters: a wire command is one whose frame is intact
(its `cks` field is `CK16` of the covered bytes, `spec/30_encoding.md` R71) and whose payload is legal for it (R76 to
R80, `spec/41_packet_codec.md` R113). A port operation has no check: any byte list may be summed (R103) and any angle and
direction may be driven (R160). An ill-formed wire command is not meaningless: DECODE answers it with its result code. -/

namespace Sys2Proof

open Sys2Proof.Config Sys2Proof.Machine

/-- The frame's checksum field is the checksum of its covered bytes (R71, R74). -/
def intact (p : Params) (id : Byte) (b : FrameBody) : Bool := ck16 p (coveredBytes id b) == b.cks

/-- The payload is legal for the command (R76 to R80; `spec/41_packet_codec.md` R113). -/
def legal (p : Params) (c : Command) (b : FrameBody) : Bool :=
  match c with
  | .motor => motorIdLegal b && motorSpeedLegal b && motorDirLegal b
  | .motorangle => angleLegal p b
  | .carhorn => durationLegal b
  | .carlight => lightCodeLegal b
  | .carconfirmation => true

/-- A wire command is intact and its fields are legal; a port operation is always well formed. -/
def WellFormed (p : Params) : Instr → Bool
  | .motor b => intact p 1 b && legal p .motor b
  | .motorangle b => intact p 2 b && legal p .motorangle b
  | .carhorn b => intact p 3 b && legal p .carhorn b
  | .carlight b => intact p 4 b && legal p .carlight b
  | .carconfirmation b => intact p 5 b && legal p .carconfirmation b
  | .cksum _ => true
  | .encode => true
  | .decode => true
  | .calibrate => true
  | .gotoangle _ _ => true
  | .tick => true

end Sys2Proof
end

