-- ==== Sys2Proof/Safety.lean ====
section
/-! DEFINITION. The words claims are stated in: what a good state is (the invariant), which causes of a failure a frame
shows, what `HOST` owes the block, and runs of ticks. -/

namespace Sys2Proof.Machine

open Sys2Proof.Config

/-- The outcome is a next state. -/
def Completes (o : Host.Outcome State Fault Refusal) : Prop := ∃ t, o = .next t

/-- The block is idle: `CTL_STATE` is `UNCAL` or `READY` (`spec/00_scope.md` R19; `spec/10_state.md` R40). -/
abbrev Pac.Idle (r : Pac) : Prop := r.ctlState = .uncal ∨ r.ctlState = .ready

/-- The one-step outputs of a DECODE that fails with code `c`. -/
def failedStrobes (c : ResultCode) : Strobes := { decAck := true, calAck := false, resultCode := c, call := none }

/-- The one-step outputs of a DECODE that succeeds with the call `r`, if it makes one. -/
def okStrobes (r : Option CallRecord) : Strobes := { decAck := true, calAck := false, resultCode := .ok, call := r }

/-- The registers hold what their widths and the rules allow. -/
structure Pac.Wf (p : Params) (r : Pac) : Prop where
  /-- R21: s ENC_W -/
  encMin_fits : FitsS p.encW r.encMin
  /-- R21: s ENC_W -/
  encMax_fits : FitsS p.encW r.encMax
  /-- R21: s ENC_W -/
  encCenter_fits : FitsS p.encW r.encCenter
  /-- R21: s (ENC_W+1) -/
  target_fits : FitsS (p.encW + 1) r.target
  /-- R21: s ENC_W -/
  dbLast_fits : FitsS p.encW r.dbLast
  /-- R21: u CNT_W -/
  dbCnt_fits : r.dbCnt < 2 ^ p.cntW
  /-- R21: u CNT_W -/
  pace_fits : r.pace < 2 ^ p.cntW
  /-- R21: u CNT_W -/
  tmo_fits : r.tmo < 2 ^ p.cntW
  /-- R166: the count that reaches `CAL_STABLE_N` ends the sweep -/
  dbCnt_lt : r.dbCnt < p.calStableN
  /-- R31: legal values 0 to 100 -/
  duty_le : r.actDuty.toNat ≤ 100
  /-- R31: in every idle state `ACT_DUTY` is 0 -/
  idle_stopped : r.Idle → r.actDuty = 0
  /-- R26: `SUB` is 0 in an idle state -/
  idle_sub : r.Idle → r.sub = .first
  /-- R21, R167: the centre is the midpoint of the limits once calibrated -/
  center_mid : r.calibrated = true → r.encCenter = tdiv (r.encMin + r.encMax) 2
  /-- R162 (f): the target of a seek lies between the limits, if they are in order -/
  target_between : r.ctlState = .seek → r.encMin ≤ r.encMax → r.encMin ≤ r.target ∧ r.target ≤ r.encMax

/-- A good state: parameters within R7's constraints, the frame buffer in canonical form, the sampled `enc_pos` within its
width, the registers as `Pac.Wf` says. -/
structure State.Inv (s : State) : Prop where
  cfg_wf : s.cfg.Wf
  fb_wf : s.fb.wf
  encPos_fits : FitsS s.cfg.encW s.port.encPos
  pac_wf : s.pac.Wf s.cfg

/-- The actuator is driven in a sweep, with the sweep's direction, and in a drive interval, and stopped everywhere else
(R152, R153, R167, R170, R174, R176). -/
structure Pac.MotionWf (p : Params) (r : Pac) : Prop where
  sweepMin : r.ctlState = .calib → r.sub = .first → r.actDuty = dutyBits p.calDuty ∧ r.actDir = false
  settle : r.ctlState = .calib → r.sub = .second → r.actDuty = 0
  sweepMax : r.ctlState = .calib → r.sub = .third → r.actDuty = dutyBits p.calDuty ∧ r.actDir = true
  sample : r.ctlState = .seek → r.sub = .first → r.actDuty = 0
  drive : r.ctlState = .seek → r.sub = .second → 1 ≤ r.actDuty.toNat ∧ r.actDuty.toNat ≤ 100
  stop : r.ctlState = .seek → r.sub = .third → r.actDuty = 0
  idle : r.Idle → r.actDuty = 0

/-- The cause of a result code is present in the invocation (the "cause" column of `spec/60_exceptions.md` R190). -/
def CausePresent (s : State) : ResultCode → Prop
  | .ok => False
  | .errNull => s.port.framePresent = false
  | .errSentinel => s.fb.frame.start ≠ startMarker ∨ s.fb.frame.stop ≠ endMarker
  | .errChecksum => ck16 s.cfg (coveredBytes s.fb.frame.id s.fb.frame.body) ≠ s.fb.frame.body.cks
  | .errUnknownCmd => s.fb.frame.id.toNat = 0 ∨ 6 ≤ s.fb.frame.id.toNat
  | .errMotorId => s.fb.frame.id = 1 ∧ s.fb.frame.body.p0 ≠ 1 ∧ s.fb.frame.body.p0 ≠ 2
  | .errMotorSpeed => s.fb.frame.id = 1 ∧ 100 < s.fb.frame.body.p1.toNat
  | .errMotorDir => s.fb.frame.id = 1 ∧ s.fb.frame.body.p2 ≠ 0 ∧ s.fb.frame.body.p2 ≠ 1
  | .errAngle =>
    s.fb.frame.id = 2 ∧
      (angleOperand s.fb.frame.body < s.cfg.angleMin ∨ s.cfg.angleMax < angleOperand s.fb.frame.body)
  | .errHornDuration => s.fb.frame.id = 3 ∧ s.fb.frame.body.p1.toInt < 0
  | .errLightCode => s.fb.frame.id = 4 ∧ 7 < s.fb.frame.body.p1.toNat

/-- What `HOST` owes the block while a request for a DECODE is not acknowledged, on the inputs of one step
(`spec/10_state.md` R41; `spec/20_memory.md` R58 (b); `spec/70_reset_and_hazards.md` R230, R232): the request stays raised,
`frame_present` stays as it was, and nothing is stored into the buffer. -/
def HoldsFrame (present : Bool) (d : Drive) : Prop :=
  d.decReq = true ∧ d.framePresent = present ∧ d.fbWrites = []

/-- The registers after the given samples, one TICK each, oldest first. -/
def Pac.ticks (p : Params) (r : Pac) (samples : List Int) : Pac := samples.foldl (fun r e => r.tick p e) r

/-- A scripted step that is one tick and asks for nothing. -/
def OnlyTick (d : Drive) : Prop := d.rst = false ∧ d.tick = true ∧ d.decReq = false ∧ d.calReq = false

end Sys2Proof.Machine
end

