-- ==== Sys2Proof/Certificates/Slice0/Obligations.lean ====
section
/-! DEFINITION. The statements for the provers, each a proposition about the machine. A statement about an operation gives
the whole next state, so it says the result, the frame and that the operation completes. A statement that speaks of
register values without the narrowing of a write has the invariant `State.Inv` as a premise, which is a statement of its
own (`StepKeepsInvariant`, `ResetSatisfiesInvariant`). -/

open Sys2Proof Sys2Proof.Machine Sys2Proof.Config

/-! ### The whole machine -/

/-- No step ends in a fault or a refusal: "the block never halts, locks up or needs a reset because of a failure"
(R196). -/
def Obligations.StepNeverStops : Prop := ∀ s : State, ∃ t, step s = .next t

/-- The invariant is kept by every step: parameters legal, frame buffer canonical, every register within its width and as
R21, R26, R31 and R162 (f) say. (The canonical form is the model's own, log entry 5.) -/
def Obligations.StepKeepsInvariant : Prop := ∀ s t : State, s.Inv → step s = .next t → t.Inv

/-- The invariant holds in the model's reset state (whose parameters are R7's defaults; log entries 2, 5, 6). -/
def Obligations.ResetSatisfiesInvariant : Prop := State.reset.Inv

/-- R36 to R38, R40: a step samples its inputs, `enc_pos` narrowed to `ENC_W` bits, and the buffer with `HOST`'s stores of
that step, which touches nothing else; then it does exactly one of reset, CALIBRATE, DECODE, TICK, nothing, chosen in this
order; the acknowledges are 1 exactly in the steps that perform CALIBRATE and DECODE; ENCODE's outputs follow their inputs
in every step. (That the inputs come from `inbox`, as one list of stores before the edge, is the model's choice, log entry
1.) -/
def Obligations.StepChoosesOneOperation : Prop :=
  ∀ s : State,
    (s.latch.pac = s.pac ∧ s.latch.strobes = Strobes.low ∧ s.latch.records = s.records ∧ s.latch.cfg = s.cfg ∧
      s.latch.ckResult = s.ckResult ∧ s.latch.inbox = s.inbox.tail ∧ s.latch.stepNo = s.stepNo + 1 ∧
      s.latch.fb = s.fb.setAll s.nextDrive.fbWrites) ∧
    (s.latch.port.rst = s.nextDrive.rst ∧ s.latch.port.tick = s.nextDrive.tick ∧
      s.latch.port.decReq = s.nextDrive.decReq ∧ s.latch.port.framePresent = s.nextDrive.framePresent ∧
      s.latch.port.calReq = s.nextDrive.calReq ∧ s.latch.port.encPayload = s.nextDrive.encPayload ∧
      s.latch.port.encId = s.nextDrive.encId) ∧
    (s.cfg.Wf → FitsS s.cfg.encW s.latch.port.encPos ∧
      (2 ^ s.cfg.encW : Int) ∣ s.latch.port.encPos - s.nextDrive.encPos ∧
      (FitsS s.cfg.encW s.nextDrive.encPos → s.latch.port.encPos = s.nextDrive.encPos)) ∧
    (s.nextDrive.rst = true → step s = .next { s.latch with pac := Pac.reset }) ∧
    (s.nextDrive.rst = false → s.pac.Idle → s.nextDrive.calReq = true → step s = exec .calibrate s.latch) ∧
    (s.nextDrive.rst = false → s.pac.Idle → s.nextDrive.calReq = false → s.nextDrive.decReq = true →
      step s = exec .decode s.latch) ∧
    (s.nextDrive.rst = false → s.pac.Idle → s.nextDrive.calReq = false → s.nextDrive.decReq = false →
      step s = .next s.latch) ∧
    (s.nextDrive.rst = false → ¬ s.pac.Idle → s.nextDrive.tick = true → step s = exec .tick s.latch) ∧
    (s.nextDrive.rst = false → ¬ s.pac.Idle → s.nextDrive.tick = false → step s = .next s.latch) ∧
    ∀ t, step s = .next t →
      (t.strobes.calAck = true ↔ s.nextDrive.rst = false ∧ s.pac.Idle ∧ s.nextDrive.calReq = true) ∧
      (t.strobes.decAck = true ↔
        s.nextDrive.rst = false ∧ s.pac.Idle ∧ s.nextDrive.calReq = false ∧ s.nextDrive.decReq = true) ∧
      exec .encode t = .next t

/-- A step runs the decoded instruction: in an idle step with `dec_req` = 1 and no other request, when the bytes that stand
in the frame buffer decode to `i`, the step is `exec i` on the latched state. (That this holds of a frame whose checksum is
wrong too, which R73 calls selected but not executed, is the model's choice: a command's meaning contains the checksum
stage, log entry 12.) -/
def Obligations.StepRunsDecodedFrame : Prop :=
  ∀ (s : State) (i : Instr),
    s.nextDrive.rst = false → s.pac.Idle → s.nextDrive.calReq = false → s.nextDrive.decReq = true →
    s.nextDrive.framePresent = true → decodeBytes s.latch.fb.bytes = .ok i →
    step s = exec i s.latch

/-- An instruction of the opcode table that is placed as the next one is the one the next step runs: a frame, or a request
vector that does not raise `rst`. (Where the word is placed is the model's choice, log entry 8; that a frame of any
checksum runs its command, whose meaning contains the checksum stage, is the model's choice, log entry 12; that the vectors
which select no clocked operation run ENCODE is the model's choice, log entry 4.) -/
def Obligations.PlacedWordRunsNext : Prop :=
  ∀ (s : State) (i : Instr) (w : Nat),
    (s.fb.wf → decodeTableWord 96 w = some i →
      step (s.withFetchWord 96 w) = exec i (s.withFetchWord 96 w).latch) ∧
    (w < 16 → decodeTableWord 8 w = some i → step (s.withFetchWord 8 w) = exec i (s.withFetchWord 8 w).latch)

/-- A step with `rst` = 1 gives every register its reset value, whatever the state and the other inputs (R45), and raises no
acknowledge, no result and no call (R220); the frame buffer is `HOST`'s and the parameters stay (R221). (That the call
records and `ckResult` stay is the model's choice, log entry 7; that ENCODE's outputs follow their inputs in a reset step
too is inferred, log entry 15.) -/
def Obligations.StepWithRstResetsEveryRegister : Prop :=
  ∀ s : State, s.nextDrive.rst = true →
    step s = .next { s.latch with
      pac := { encMin := 0, encMax := 0, encCenter := 0, target := 0, dbLast := 0, dbValid := false, dbCnt := 0,
               pace := 0, tmo := 0, ctlState := .uncal, sub := .first, ctlStatus := .noneYet, actDuty := 0,
               actDir := false }
      strobes := { decAck := false, calAck := false, resultCode := .ok, call := none } }

/-- R41, R57, R58: a frame that stands in the buffer and whose request `HOST` holds over any number of steps, storing
nothing, is the frame decoded in the next step that finds the block idle without `cal_req` and `rst`: that step is DECODE on
a state whose buffer and `frame_present` are those that were presented, and it acknowledges. -/
def Obligations.HeldFrameIsServedWhenIdle : Prop :=
  ∀ (t u : State) (ds : List Drive) (d : Drive) (rest : List Drive), t.inbox = ds ++ d :: rest →
    (∀ x ∈ ds, HoldsFrame t.port.framePresent x) → HoldsFrame t.port.framePresent d →
    Sys2Proof.core.run ds.length t = .next u → u.pac.Idle → d.rst = false → d.calReq = false →
    step u = exec .decode u.latch ∧ u.latch.fb = t.fb ∧ u.latch.port.framePresent = t.port.framePresent ∧
      ∃ v, step u = .next v ∧ v.strobes.decAck = true

/-- R41, R230: a request that is raised only while the block is busy has no effect at all on the registers, the records and
the acknowledges. -/
def Obligations.RequestWhileBusyIsLost : Prop :=
  ∀ (s : State) (d d' : Drive) (ds : List Drive) (t t' : State), ¬ s.pac.Idle →
    d'.rst = d.rst → d'.tick = d.tick → d'.encPos = d.encPos →
    step { s with inbox := d :: ds } = .next t → step { s with inbox := d' :: ds } = .next t' →
    t'.pac = t.pac ∧ t'.records = t.records ∧ t.strobes = Strobes.low ∧ t'.strobes = Strobes.low

/-- The frame buffer changes by `HOST`'s stores only (R50, R56): after a step every other byte reads as before, and a
stored byte reads as stored. -/
def Obligations.StepStoresOnlyHostBytes : Prop :=
  ∀ s t : State, s.fb.wf → step s = .next t →
    (∀ a, (∀ w ∈ s.nextDrive.fbWrites, w.1.val ≠ a) → t.fb.get a = s.fb.get a) ∧
    (∀ l w l', s.nextDrive.fbWrites = l ++ w :: l' → (∀ w' ∈ l', w'.1 ≠ w.1) → t.fb.get w.1.val = w.2)

/-- No operation writes the frame buffer, an input port or a parameter, and none emits more than one call record or takes
one back (R7, R16, R20, R50, R119). (The scripted inputs `inbox` and the step number `stepNo`, which no operation writes
either, are the model's own fields, log entry 1.) -/
def Obligations.OperationsLeaveWorldAlone : Prop :=
  ∀ (i : Instr) (s t : State), exec i s = .next t →
    (∀ a, t.fb.get a = s.fb.get a) ∧ t.fb = s.fb ∧ t.port = s.port ∧ t.inbox = s.inbox ∧ t.stepNo = s.stepNo ∧
      t.cfg = s.cfg ∧ ∃ l : List CallRecord, t.records = s.records ++ l ∧ l.length ≤ 1

/-- R20: CKSUM, ENCODE, MOTOR, CARHORN, CARLIGHT, CARCONFIRMATION write no register; a DECODE writes one only through a
MOTORANGLE frame; and MOTORANGLE, GOTOANGLE and such a DECODE leave the calibration, the detector and the actuator
alone. -/
def Obligations.OnlyControllerOperationsTouchRegisters : Prop :=
  ∀ s t : State,
    (∀ b, exec (.motor b) s = .next t → t.pac = s.pac) ∧
    (∀ b, exec (.carhorn b) s = .next t → t.pac = s.pac) ∧
    (∀ b, exec (.carlight b) s = .next t → t.pac = s.pac) ∧
    (∀ b, exec (.carconfirmation b) s = .next t → t.pac = s.pac) ∧
    (∀ l, exec (.cksum l) s = .next t → t.pac = s.pac) ∧
    (exec .encode s = .next t → t.pac = s.pac) ∧
    (exec .decode s = .next t → s.fb.frame.id ≠ 2 → t.pac = s.pac) ∧
    ((∃ b, exec (.motorangle b) s = .next t) ∨ (∃ a d, exec (.gotoangle a d) s = .next t) ∨
        exec .decode s = .next t →
      t.pac = { s.pac with
        target := t.pac.target, ctlState := t.pac.ctlState, sub := t.pac.sub, pace := t.pac.pace, tmo := t.pac.tmo,
        ctlStatus := t.pac.ctlStatus })

/-- The actuator is driven in the sweeps and the drive intervals only, in the sweep's direction, and stopped everywhere
else, in every idle state too (R31, R152, R153, R167, R170, R174, R176); every step keeps that, and it holds after reset. -/
def Obligations.StepKeepsMotionRules : Prop :=
  (∀ s t : State, s.cfg.Wf → s.pac.MotionWf s.cfg → step s = .next t → t.pac.MotionWf t.cfg) ∧
    State.reset.pac.MotionWf State.reset.cfg

/-- R151: `CTL_STATE` and `CTL_STATUS` after a step are the row of the transition table whose state and event are at hand,
the time limits tested first (R166, R170); with no such row both stay. GOTOANGLE is seen as the `angle_set` call of the
step. -/
def Obligations.TransitionsAreTheTable : Prop :=
  ∀ s t : State, step s = .next t →
    (t.pac.ctlState, t.pac.ctlStatus) =
      if s.nextDrive.rst = true then (.uncal, .noneYet)
      else if s.pac.Idle ∧ s.nextDrive.calReq = true then (.calib, .noneYet)
      else if s.pac.ctlState = .uncal ∧ t.outputs.angleSet.isSome = true then (.uncal, .notCalibrated)
      else if s.pac.ctlState = .ready ∧ t.outputs.angleSet.isSome = true then (.seek, .noneYet)
      else if s.pac.ctlState = .calib ∧ s.nextDrive.tick = true ∧ s.pac.sub ≠ .second ∧
          s.cfg.calTimeoutTicks ≠ 0 ∧ s.cfg.calTimeoutTicks < s.pac.tmo + 1 then (.uncal, .calTimeout)
      else if s.pac.ctlState = .calib ∧ s.nextDrive.tick = true ∧ s.pac.sub = .third ∧
          s.cfg.calStableN ≤ (if s.pac.dbValid = true ∧ (t.port.encPos - s.pac.dbLast).natAbs ≤ s.cfg.calTol
            then s.pac.dbCnt + 1 else 0) then (.ready, .calOk)
      else if s.pac.ctlState = .seek ∧ s.nextDrive.tick = true ∧
          s.cfg.seekTimeoutTicks ≠ 0 ∧ s.cfg.seekTimeoutTicks < s.pac.tmo + 1 then (.ready, .seekTimeout)
      else if s.pac.ctlState = .seek ∧ s.nextDrive.tick = true ∧ s.pac.sub = .first ∧
          (s.pac.target < s.pac.encMin ∨ s.pac.encMax < s.pac.target) then (.ready, .rangeFault)
      else if s.pac.ctlState = .seek ∧ s.nextDrive.tick = true ∧ s.pac.sub = .first ∧
          (t.port.encPos - s.pac.target).natAbs ≤ s.cfg.seekTol then (.ready, .seekOk)
      else (s.pac.ctlState, s.pac.ctlStatus)

/-- R22, R167: but for a reset, `ENC_MIN` changes only in the tick that ends the first sweep, and `ENC_MAX` and
`ENC_CENTER` only in the tick that ends the second, which completes the calibration. -/
def Obligations.CalibrationRegistersHaveOneWriter : Prop :=
  ∀ s t : State, s.nextDrive.rst = false → step s = .next t →
    (t.pac.encMin ≠ s.pac.encMin →
      s.pac.ctlState = .calib ∧ s.pac.sub = .first ∧ s.nextDrive.tick = true ∧ t.pac.sub = .second ∧
        t.pac.actDuty = 0) ∧
    (t.pac.encMax ≠ s.pac.encMax ∨ t.pac.encCenter ≠ s.pac.encCenter →
      s.pac.ctlState = .calib ∧ s.pac.sub = .third ∧ s.nextDrive.tick = true ∧ t.pac.ctlState = .ready ∧
        t.pac.ctlStatus = .calOk)

/-- The port table (R38): `busy` and `calibrated` (R27), the numbers on `ctl_state` (R25), `ctl_status` (R28) and
`result_code` (R190), the actuator outputs (R31), `result_valid`; `dec_ack` and `cal_ack` are the acknowledges of the last
step, `enc_frame` and `enc_ck` what ENCODE answered (R36, R111); a call stands on its own call port with its arguments and
on no other (R16); and after a step with `result_valid` = 0 `result_code` is 0 and no call port is strobed. (That a port whose
strobe is 0 has no arguments is the model's choice, log entry 13.) -/
def Obligations.OutputPortsFollowState : Prop :=
  ∀ s : State,
    ((s.outputs.busy = true ↔ s.pac.ctlState = .calib ∨ s.pac.ctlState = .seek) ∧
      s.outputs.busy = s.outputs.ctlState.getLsbD 0 ∧
      (s.outputs.calibrated = true ↔ s.pac.ctlState = .ready ∨ s.pac.ctlState = .seek) ∧
      s.outputs.resultValid = s.outputs.decAck) ∧
    (s.outputs.decAck = s.strobes.decAck ∧ s.outputs.calAck = s.strobes.calAck ∧
      s.outputs.encFrame = s.encFrame ∧ s.outputs.encCk = s.encCk) ∧
    (∀ row ∈ ([(.uncal, 0), (.calib, 1), (.ready, 2), (.seek, 3)] : List (CtlState × BitVec 2)),
      s.pac.ctlState = row.1 → s.outputs.ctlState = row.2) ∧
    (∀ row ∈ ([(.noneYet, 0), (.calOk, 1), (.seekOk, 2), (.notCalibrated, 3), (.rangeFault, 4), (.calTimeout, 5),
        (.seekTimeout, 6)] : List (CtlStatus × BitVec 3)),
      s.pac.ctlStatus = row.1 → s.outputs.ctlStatus = row.2) ∧
    (∀ row ∈ ([(.ok, 0), (.errNull, 1), (.errSentinel, 2), (.errChecksum, 3), (.errUnknownCmd, 4), (.errMotorId, 5),
        (.errMotorSpeed, 6), (.errMotorDir, 7), (.errAngle, 8), (.errHornDuration, 9), (.errLightCode, 10)] :
          List (ResultCode × BitVec 8)),
      s.strobes.resultCode = row.1 → s.outputs.resultCode = row.2) ∧
    (s.outputs.actDuty = s.pac.actDuty ∧ (s.outputs.actDir = 1 ↔ s.pac.actDir = true)) ∧
    (s.strobes.call = none →
      s.outputs.speedSet = none ∧ s.outputs.angleSet = none ∧ s.outputs.horn = none ∧ s.outputs.light = none) ∧
    (∀ m p d, s.strobes.call = some (.speedSet m p d) →
      s.outputs.speedSet = some (m, p, d) ∧ s.outputs.angleSet = none ∧ s.outputs.horn = none ∧
        s.outputs.light = none) ∧
    (∀ a d, s.strobes.call = some (.angleSet a d) →
      s.outputs.angleSet = some (a, d) ∧ s.outputs.speedSet = none ∧ s.outputs.horn = none ∧ s.outputs.light = none) ∧
    (∀ ms, s.strobes.call = some (.hornTrigger ms) →
      s.outputs.horn = some ms ∧ s.outputs.speedSet = none ∧ s.outputs.angleSet = none ∧ s.outputs.light = none) ∧
    (∀ c o, s.strobes.call = some (.lightSet c o) →
      s.outputs.light = some (c, o) ∧ s.outputs.speedSet = none ∧ s.outputs.angleSet = none ∧
        s.outputs.horn = none) ∧
    ∀ t, step s = .next t → t.outputs.resultValid = false →
      t.outputs.resultCode = 0 ∧ t.outputs.speedSet = none ∧ t.outputs.angleSet = none ∧ t.outputs.horn = none ∧
        t.outputs.light = none

/-! ### Encoding -/

/-- Decode and encode agree: every operation that has an encoding, with every operand, decodes from it (R71, R72, R85).
(That ENCODE, which R111 gives no encoding, is written as the vector 00000 and read from it, and that CKSUM and GOTOANGLE
have none, is the model's choice, log entry 4.) -/
def Obligations.EncodedInstructionDecodesToItself : Prop :=
  ∀ (i : Instr) (e : Encoding), encode i = some e → decode e = .ok i

/-- A byte sequence that decodes is the encoding of what it decodes to: no bit of a frame is dropped (R71). -/
def Obligations.DecodedBytesEncodeBack : Prop :=
  ∀ (l : List Byte) (i : Instr), decodeBytes l = .ok i → encode i = some (.frame l)

/-- R73: in the numbering of the opcode table a frame selects the command whose match its bits under the mask equal. -/
def Obligations.TableMaskSelectsCommand : Prop :=
  ∀ (F : BitVec 96) (c : Command),
    (∃ b, decodeTableWord 96 F.toNat = some (c.instr b)) ↔
      F &&& 0xFFFF00000000000000FFFFFF#96 = (0x0D0A0000000000000000AA55#96 ||| (c.id.setWidth 96 <<< 16))

/-- R85: the operation each request vector selects; under every vector that selects no clocked operation the decoder answers
ENCODE, which is selected in every step (the model's choice, log entry 4). -/
def Obligations.RequestVectorSelectsOperation : Prop :=
  ∀ r b t c d : Bool,
    decodeVector (vectorOf false false t true d) = .calibrate ∧
    decodeVector (vectorOf false false t false true) = .decode ∧
    decodeVector (vectorOf false true true c d) = .tick ∧
    decodeVector (vectorOf false false t false false) = .encode ∧
    decodeVector (vectorOf false true false c d) = .encode ∧
    decodeVector (vectorOf true b t c d) = .encode ∧
    (r = true ∨ b = true → decodeVector (vectorOf r b t c d) ≠ .calibrate)

/-- A few frames of the spec's test vectors, byte by byte, decode to the commands they stand for. -/
def Obligations.SampleFramesDecode : Prop :=
  decodeBytes [0x55, 0xAA, 0x01, 0x01, 0x3C, 0x01, 0x00, 0x01, 0x40, 0x00, 0x0A, 0x0D] =
      .ok (.motor ⟨1, 60, 1, 0, 1, 0x0040⟩) ∧
    decodeBytes [0x55, 0xAA, 0x02, 0x01, 0x56, 0xFF, 0x01, 0x01, 0x5A, 0x01, 0x0A, 0x0D] =
      .ok (.motorangle ⟨1, 0x56, 0xFF, 1, 1, 0x015A⟩) ∧
    decodeBytes [0x55, 0xAA, 0x04, 0x01, 0x05, 0x00, 0x00, 0x01, 0x0B, 0x00, 0x0A, 0x0D] =
      .ok (.carlight ⟨1, 5, 0, 0, 1, 0x000B⟩) ∧
    decodeBytes [0x55, 0xAA, 0x01, 0x01, 0x3C, 0x01, 0x00, 0x01, 0x40, 0x00, 0x0D, 0x0A] = .error .sentinel ∧
    decodeBytes [0x55, 0xAA, 0x06, 0x01, 0x02, 0x03, 0x04, 0x01, 0x11, 0x00, 0x0A, 0x0D] =
      .error (.unknownCommand 6)

/-! ### The checksum -/

/-- R102: `SUM16` is the sum of the bytes modulo 65536; of the empty list 0, of one byte that byte; of six bytes it is at most
1530 and never wraps; and it is the value of `CK16`, which ENCODE and DECODE use, on every list when it is the instance. -/
def Obligations.Sum16IsByteSumModulo : Prop :=
  (∀ l : List Byte, (sum16 l).toNat = (l.map BitVec.toNat).sum % 65536) ∧
    sum16 [] = 0 ∧ (∀ b : Byte, (sum16 [b]).toNat = b.toNat) ∧
    (∀ l : List Byte, l.length = 6 → (sum16 l).toNat = (l.map BitVec.toNat).sum ∧ (sum16 l).toNat ≤ 1530) ∧
    (∀ p : Params, p.Wf → p.ck = .sum16 →
      ∀ l : List Byte, (ck16 p l).toNat = (l.map BitVec.toNat).sum % 65536)

/-- CK-P3 of R101: whatever instance the parameter is, the default one too (R102), the checksum tells any single-bit change
of six bytes. (How an instance other than the default is formed is the model's choice, log entry 3.) -/
def Obligations.ChecksumTellsSingleBits : Prop := ∀ p : Params, SingleBitSensitive (ck16 p)

/-- R103: CKSUM answers `CK16` of the list, of any length, and changes nothing else; the empty list gives `CK_BASE`; with
`SUM16` the answer is the byte sum modulo 65536 (R102), and neither the order of the bytes nor bytes of value 0 matter. (That the value is shown in the field `ckResult` is the
model's choice, log entry 7.) -/
def Obligations.CksumAnswersChecksum : Prop :=
  ∀ (s : State) (l : List Byte),
    exec (.cksum l) s = .next { s with ckResult := ck16 s.cfg l } ∧
    ck16 s.cfg [] = s.cfg.ckBase ∧
    (s.cfg.Wf → s.cfg.ck = .sum16 →
      (ck16 s.cfg l).toNat = (l.map BitVec.toNat).sum % 65536 ∧
      (∀ l' : List Byte, l'.Perm l → ck16 s.cfg l' = ck16 s.cfg l) ∧
      ck16 s.cfg (l.filter (· != 0)) = ck16 s.cfg l)

/-! ### ENCODE -/

/-- R111, R112: for any payload and any id ENCODE answers the frame of the pseudocode, byte by byte, and the checksum; it
changes nothing else. -/
def Obligations.EncodeBuildsFrame : Prop :=
  ∀ s : State, ∃ (f : BitVec 96) (ck : Half),
    exec .encode s = .next { s with encFrame := f, encCk := ck } ∧
    ck = ck16 s.cfg [s.port.encPayload.extractLsb' 0 8, s.port.encPayload.extractLsb' 8 8,
      s.port.encPayload.extractLsb' 16 8, s.port.encPayload.extractLsb' 24 8, s.port.encId, 1] ∧
    f.extractLsb' 0 8 = 0x55 ∧ f.extractLsb' 8 8 = 0xAA ∧ f.extractLsb' 16 8 = s.port.encId ∧
    f.extractLsb' 24 8 = s.port.encPayload.extractLsb' 0 8 ∧ f.extractLsb' 32 8 = s.port.encPayload.extractLsb' 8 8 ∧
    f.extractLsb' 40 8 = s.port.encPayload.extractLsb' 16 8 ∧
    f.extractLsb' 48 8 = s.port.encPayload.extractLsb' 24 8 ∧
    f.extractLsb' 56 8 = 1 ∧ f.extractLsb' 64 8 = ck.extractLsb' 0 8 ∧ f.extractLsb' 72 8 = ck.extractLsb' 8 8 ∧
    f.extractLsb' 80 8 = 0x0A ∧ f.extractLsb' 88 8 = 0x0D

/-- R113, round trip: a frame that ENCODE built, for any payload and id, standing in the buffer of an idle block with the same
parameters, is not rejected as absent, for its markers or for its checksum; if its id is a command's and its payload legal
for it, DECODE returns 0. Whatever the checksum function is. -/
def Obligations.EncodedFrameIsAccepted : Prop :=
  ∀ e e' s : State, exec .encode e = .next e' → s.cfg = e.cfg → s.pac.Idle → s.port.framePresent = true →
    (∀ k, k < 12 → s.fb.get k = e'.encFrame.extractLsb' (8 * k) 8) →
    ∃ t, exec .decode s = .next t ∧ t.strobes.decAck = true ∧
      t.strobes.resultCode ≠ .errNull ∧ t.strobes.resultCode ≠ .errSentinel ∧ t.strobes.resultCode ≠ .errChecksum ∧
      (∀ c : Command, c.id = e.port.encId → legal s.cfg c s.fb.frame.body = true → t.strobes.resultCode = .ok)

/-! ### DECODE -/

/-- R115: with `frame_present` = 0 the result is `ERR_NULL`, whatever stands in the buffer, and nothing else happens. -/
def Obligations.DecodeOfAbsentFrame : Prop :=
  ∀ s : State, s.pac.Idle → s.port.framePresent = false →
    exec .decode s = .next { s with
      strobes := { decAck := true, calAck := false, resultCode := .errNull, call := none } }

/-- R116, R53: a wrong byte in either marker gives `ERR_SENTINEL`, whatever the rest of the frame holds; nothing else
happens. -/
def Obligations.DecodeOfWrongMarker : Prop :=
  ∀ s : State, s.pac.Idle → s.port.framePresent = true →
    (s.fb.get 0 ≠ 0x55 ∨ s.fb.get 1 ≠ 0xAA ∨ s.fb.get 10 ≠ 0x0A ∨ s.fb.get 11 ≠ 0x0D) →
    exec .decode s = .next { s with
      strobes := { decAck := true, calAck := false, resultCode := .errSentinel, call := none } }

/-- R117: with good markers a wrong checksum gives `ERR_CHECKSUM`, whatever the id and the fields are; nothing else
happens. -/
def Obligations.DecodeOfWrongChecksum : Prop :=
  ∀ s : State, s.pac.Idle → s.port.framePresent = true →
    s.fb.get 0 = 0x55 → s.fb.get 1 = 0xAA → s.fb.get 10 = 0x0A → s.fb.get 11 = 0x0D →
    ck16 s.cfg [s.fb.get 3, s.fb.get 4, s.fb.get 5, s.fb.get 6, s.fb.get 2, s.fb.get 7] ≠
      leHalf (s.fb.get 8) (s.fb.get 9) →
    exec .decode s = .next { s with
      strobes := { decAck := true, calAck := false, resultCode := .errChecksum, call := none } }

/-- R117: flipping any single bit of the covered bytes or of the checksum field of a frame that DECODE accepts makes DECODE
report an integrity error. -/
def Obligations.SingleBitFlipIsReported : Prop :=
  ∀ (s t s' : State) (k j : Nat),
    s.pac.Idle → s.port.framePresent = true → exec .decode s = .next t → t.strobes.resultCode = .ok →
    2 ≤ k → k ≤ 9 → j < 8 →
    s'.pac.Idle → s'.port.framePresent = true → s'.cfg = s.cfg →
    (∀ a, a < 12 → s'.fb.get a = if a = k then s.fb.get a ^^^ BitVec.twoPow 8 j else s.fb.get a) →
    ∃ t', exec .decode s' = .next t' ∧ t'.strobes.resultCode = .errChecksum

/-- R118, R140: `id` = 0 and 6 to 255 return `ERR_UNKNOWN_CMD`, whatever the payload; nothing else happens. -/
def Obligations.DecodeOfUnassignedId : Prop :=
  ∀ s : State, s.pac.Idle → s.port.framePresent = true →
    s.fb.get 0 = 0x55 → s.fb.get 1 = 0xAA → s.fb.get 10 = 0x0A → s.fb.get 11 = 0x0D →
    ck16 s.cfg [s.fb.get 3, s.fb.get 4, s.fb.get 5, s.fb.get 6, s.fb.get 2, s.fb.get 7] =
      leHalf (s.fb.get 8) (s.fb.get 9) →
    (s.fb.get 2 = 0 ∨ 6 ≤ (s.fb.get 2).toNat) →
    exec .decode s = .next { s with
      strobes := { decAck := true, calAck := false, resultCode := .errUnknownCmd, call := none } }

/-- DECODE of a frame with good markers and a command's id is that command on the frame's other fields (R73, R114). (That
this holds of a frame whose checksum is wrong too is the model's choice: DECODE does stages 1 and 2 and then runs the
command's meaning, which contains stage 3, log entry 12.) -/
def Obligations.DecodeRunsSelectedCommand : Prop :=
  ∀ (s : State) (c : Command), s.pac.Idle → s.port.framePresent = true →
    s.fb.get 0 = 0x55 → s.fb.get 1 = 0xAA → s.fb.get 10 = 0x0A → s.fb.get 11 = 0x0D → s.fb.get 2 = c.id →
    exec .decode s =
      exec (c.instr ⟨s.fb.get 3, s.fb.get 4, s.fb.get 5, s.fb.get 6, s.fb.get 7, leHalf (s.fb.get 8) (s.fb.get 9)⟩) s

/-- R194: in an idle block DECODE completes and reports one code: 0 exactly when no cause of a failure is present, else the
code of a cause that is present, the smallest of them. -/
def Obligations.DecodeReportsLeastCause : Prop :=
  ∀ s : State, s.pac.Idle → ∃ t, exec .decode s = .next t ∧ t.strobes.decAck = true ∧ t.strobes.calAck = false ∧
    (t.strobes.resultCode = .ok ↔ ∀ c, ¬ CausePresent s c) ∧
    (t.strobes.resultCode ≠ .ok → CausePresent s t.strobes.resultCode) ∧
    (∀ c, CausePresent s c → t.strobes.resultCode.code.toNat ≤ c.code.toNat)

/-- R15, R196: a DECODE that ends with a code other than 0 makes no call and changes nothing but the one-step outputs. -/
def Obligations.FailedDecodeChangesNothing : Prop :=
  ∀ s t : State, s.pac.Idle → exec .decode s = .next t → t.strobes.resultCode ≠ .ok →
    t = { s with strobes := { decAck := true, calAck := false, resultCode := t.strobes.resultCode, call := none } }

/-- R119: a DECODE that returns 0 emits exactly one call record for ids 1 to 4 and none for id 5, that record is the one on
the call port, and no register changes unless the id is 2. -/
def Obligations.SuccessfulDecodeMakesOneCall : Prop :=
  ∀ s t : State, s.pac.Idle → exec .decode s = .next t → t.strobes.resultCode = .ok →
    t.records = s.records ++ t.strobes.call.toList ∧
    (s.fb.frame.id.toNat ∈ [1, 2, 3, 4, 5]) ∧
    (t.strobes.call = none ↔ s.fb.frame.id = 5) ∧
    (s.fb.frame.id ≠ 2 → t.pac = s.pac)

/-- R120: the result code and the call of a DECODE are a function of `frame_present` and the frame (and the parameters): two
idle blocks that differ in anything else answer the same; so a rejected frame is rejected identically again. -/
def Obligations.DecodeResultDependsOnFrameOnly : Prop :=
  ∀ s s' t t' : State, s.pac.Idle → s'.pac.Idle → s'.port.framePresent = s.port.framePresent →
    (∀ a, a < 12 → s'.fb.get a = s.fb.get a) → s'.cfg = s.cfg →
    exec .decode s = .next t → exec .decode s' = .next t' → t'.strobes = t.strobes

/-- The sequence count (R75) and the payload bytes a command does not validate (R82) have no effect: two frames of a command
with good checksums that agree in the bytes the command looks at do the same. (Of these rules it says this clause only: that
the bytes are covered by the checksum is a premise here.) -/
def Obligations.UnvalidatedBytesHaveNoEffect : Prop :=
  ∀ (s : State) (b b' : FrameBody),
    (intact s.cfg 1 b = true → intact s.cfg 1 b' = true → b'.p0 = b.p0 → b'.p1 = b.p1 → b'.p2 = b.p2 →
      exec (.motor b') s = exec (.motor b) s) ∧
    (intact s.cfg 2 b = true → intact s.cfg 2 b' = true → b'.p1 = b.p1 → b'.p2 = b.p2 → b'.p3 = b.p3 →
      exec (.motorangle b') s = exec (.motorangle b) s) ∧
    (intact s.cfg 3 b = true → intact s.cfg 3 b' = true → b'.p1 = b.p1 →
      exec (.carhorn b') s = exec (.carhorn b) s) ∧
    (intact s.cfg 4 b = true → intact s.cfg 4 b' = true → b'.p1 = b.p1 →
      exec (.carlight b') s = exec (.carlight b) s) ∧
    (intact s.cfg 5 b = true → intact s.cfg 5 b' = true →
      exec (.carconfirmation b') s = exec (.carconfirmation b) s)

/-- What is not served changes nothing (R40, R41, R122): a busy block serves neither a frame, whatever its command, nor
CALIBRATE, and refuses a GOTOANGLE driven directly, without a step (R163); an idle block ignores `tick`. (That such an
operation, driven directly, answers a next state with the one-step outputs low is inferred, log entry 11; that GOTOANGLE
answers a refusal is inferred, log entry 10.) -/
def Obligations.UnservedRequestsChangeNothing : Prop :=
  ∀ s : State,
    (s.pac.ctlState = .calib ∨ s.pac.ctlState = .seek →
      exec .decode s = .next { s with strobes := Strobes.low } ∧
      exec .calibrate s = .next { s with strobes := Strobes.low } ∧
      (∀ (c : Command) (b : FrameBody), exec (c.instr b) s = .next { s with strobes := Strobes.low }) ∧
      ∀ (a : Half) (d : Byte), exec (.gotoangle a d) s = .refused .gotoWhileBusy) ∧
    (s.pac.ctlState = .uncal ∨ s.pac.ctlState = .ready → exec .tick s = .next { s with strobes := Strobes.low })

/-! ### The wire commands -/

/-- Stage 3 comes before every field check (R73, R114, R117): a wire command whose checksum is wrong ends with
`ERR_CHECKSUM` and does nothing else. (That the command's own meaning ends so, while R130 enters a command only after the
checksum stage, is the model's choice, log entry 12.) -/
def Obligations.WrongChecksumStopsEveryCommand : Prop :=
  ∀ (s : State) (c : Command) (b : FrameBody), s.pac.Idle →
    ck16 s.cfg [b.p0, b.p1, b.p2, b.p3, c.id, b.count] ≠ b.cks →
    exec (c.instr b) s = .next { s with
      strobes := { decAck := true, calAck := false, resultCode := .errChecksum, call := none } }

/-- R113, R130: an idle block answers a wire command with 0 exactly when it is well formed, intact and legal. (That the
checksum stage is part of the command's meaning is the model's choice, log entry 12.) -/
def Obligations.WellFormedCommandsAreTheAcceptedOnes : Prop :=
  ∀ (s : State) (c : Command) (b : FrameBody), s.pac.Idle →
    ∃ t, exec (c.instr b) s = .next t ∧ t.strobes.decAck = true ∧
      (t.strobes.resultCode = .ok ↔ WellFormed s.cfg (c.instr b) = true)

/-- R131, R132: MOTOR checks id, speed, direction in this order, then makes its one call; nothing else changes. -/
def Obligations.MotorChecksThenCalls : Prop :=
  ∀ (s : State) (b : FrameBody), s.pac.Idle →
    ck16 s.cfg [b.p0, b.p1, b.p2, b.p3, 1, b.count] = b.cks →
    exec (.motor b) s = .next (
      if b.p0 ≠ 1 ∧ b.p0 ≠ 2 then
        { s with strobes := { decAck := true, calAck := false, resultCode := .errMotorId, call := none } }
      else if 100 < b.p1.toNat then
        { s with strobes := { decAck := true, calAck := false, resultCode := .errMotorSpeed, call := none } }
      else if b.p2 ≠ 0 ∧ b.p2 ≠ 1 then
        { s with strobes := { decAck := true, calAck := false, resultCode := .errMotorDir, call := none } }
      else
        { s with
          strobes := { decAck := true, calAck := false, resultCode := .ok,
                       call := some (.speedSet b.p0 b.p1 b.p2) }
          records := s.records ++ [.speedSet b.p0 b.p1 b.p2] })

/-- R133, R160, R161: MOTORANGLE refuses an angle outside [`ANGLE_MIN`, `ANGLE_MAX`]; else it makes its one call and the same
event is GOTOANGLE: in `READY` a seek to the target of R160 starts, in `UNCAL` only the status changes. -/
def Obligations.MotorangleChecksThenSteers : Prop :=
  ∀ (s : State) (b : FrameBody), s.Inv →
    ck16 s.cfg [b.p0, b.p1, b.p2, b.p3, 2, b.count] = b.cks →
    (s.pac.Idle → (leHalf b.p1 b.p2).toInt < s.cfg.angleMin ∨ s.cfg.angleMax < (leHalf b.p1 b.p2).toInt →
      exec (.motorangle b) s = .next { s with
        strobes := { decAck := true, calAck := false, resultCode := .errAngle, call := none } }) ∧
    (s.pac.ctlState = .uncal →
      s.cfg.angleMin ≤ (leHalf b.p1 b.p2).toInt → (leHalf b.p1 b.p2).toInt ≤ s.cfg.angleMax →
      exec (.motorangle b) s = .next { s with
        strobes := { decAck := true, calAck := false, resultCode := .ok,
                     call := some (.angleSet (leHalf b.p1 b.p2) b.p3) }
        records := s.records ++ [.angleSet (leHalf b.p1 b.p2) b.p3]
        pac := { s.pac with ctlStatus := .notCalibrated } }) ∧
    (s.pac.ctlState = .ready →
      s.cfg.angleMin ≤ (leHalf b.p1 b.p2).toInt → (leHalf b.p1 b.p2).toInt ≤ s.cfg.angleMax →
      exec (.motorangle b) s = .next { s with
        strobes := { decAck := true, calAck := false, resultCode := .ok,
                     call := some (.angleSet (leHalf b.p1 b.p2) b.p3) }
        records := s.records ++ [.angleSet (leHalf b.p1 b.p2) b.p3]
        pac := { s.pac with
          target :=
            if b.p3 = s.cfg.dirCw then
              s.pac.encCenter + Int.tdiv (Int.tdiv
                (max 0 (min 90 (leHalf b.p1 b.p2).toInt) * (s.pac.encMax - s.pac.encMin)) 2) 90
            else
              s.pac.encCenter - Int.tdiv (Int.tdiv
                (max 0 (min 90 (leHalf b.p1 b.p2).toInt) * (s.pac.encMax - s.pac.encMin)) 2) 90
          ctlState := .seek
          sub := .first
          pace := 0
          tmo := 0
          ctlStatus := .noneYet } })

/-- R135: CARHORN refuses a negative duration, else calls the horn with seconds times 1000; nothing else changes. -/
def Obligations.CarhornChecksThenCalls : Prop :=
  ∀ (s : State) (b : FrameBody), s.pac.Idle →
    ck16 s.cfg [b.p0, b.p1, b.p2, b.p3, 3, b.count] = b.cks →
    (128 ≤ b.p1.toNat → exec (.carhorn b) s = .next { s with
      strobes := { decAck := true, calAck := false, resultCode := .errHornDuration, call := none } }) ∧
    (b.p1.toNat < 128 → ∃ ms : BitVec 17, ms.toNat = b.p1.toNat * 1000 ∧
      exec (.carhorn b) s = .next { s with
        strobes := { decAck := true, calAck := false, resultCode := .ok, call := some (.hornTrigger ms) }
        records := s.records ++ [.hornTrigger ms] })

/-- R137, R138: CARLIGHT refuses a code above 7, else calls the light of the code-to-action table; nothing else changes. -/
def Obligations.CarlightMapsCodes : Prop :=
  ∀ (s : State) (b : FrameBody), s.pac.Idle →
    ck16 s.cfg [b.p0, b.p1, b.p2, b.p3, 4, b.count] = b.cks →
    (7 < b.p1.toNat → exec (.carlight b) s = .next { s with
      strobes := { decAck := true, calAck := false, resultCode := .errLightCode, call := none } }) ∧
    ∀ row ∈ ([(0, 0, 1), (1, 0, 0), (2, 1, 1), (3, 1, 0), (4, 2, 1), (5, 2, 0), (6, 3, 1), (7, 3, 0)] :
        List (Byte × BitVec 2 × BitVec 1)),
      b.p1 = row.1 → exec (.carlight b) s = .next { s with
        strobes := { decAck := true, calAck := false, resultCode := .ok,
                     call := some (.lightSet row.2.1 row.2.2) }
        records := s.records ++ [.lightSet row.2.1 row.2.2] }

/-- R139: CARCONFIRMATION returns 0 on every payload and makes no call; nothing else changes. -/
def Obligations.CarconfirmationReturnsOk : Prop :=
  ∀ (s : State) (b : FrameBody), s.pac.Idle →
    ck16 s.cfg [b.p0, b.p1, b.p2, b.p3, 5, b.count] = b.cks →
    exec (.carconfirmation b) s = .next { s with
      strobes := { decAck := true, calAck := false, resultCode := .ok, call := none } }

/-! ### CALIBRATE and GOTOANGLE -/

/-- R152: CALIBRATE starts the first sweep from either idle state, acknowledges, and changes nothing else. -/
def Obligations.CalibrateStartsFirstSweep : Prop :=
  ∀ s : State, s.pac.Idle →
    exec .calibrate s = .next { s with
      pac := { s.pac with
        ctlState := .calib, sub := .first, dbValid := false, dbCnt := 0, pace := 0, tmo := 0, actDir := false,
        actDuty := BitVec.ofNat 7 s.cfg.calDuty, ctlStatus := .noneYet }
      strobes := { decAck := false, calAck := true, resultCode := .ok, call := none } }

/-- R160: GOTOANGLE in `READY` starts a seek to the target of the formula, evaluated exactly, and changes nothing else. -/
def Obligations.GotoAngleStartsSeek : Prop :=
  ∀ (s : State) (a : Half) (d : Byte), s.Inv → s.pac.ctlState = .ready →
    exec (.gotoangle a d) s = .next { s with
      pac := { s.pac with
        target :=
          if d = s.cfg.dirCw then
            s.pac.encCenter +
              Int.tdiv (Int.tdiv (max 0 (min 90 a.toInt) * (s.pac.encMax - s.pac.encMin)) 2) 90
          else
            s.pac.encCenter -
              Int.tdiv (Int.tdiv (max 0 (min 90 a.toInt) * (s.pac.encMax - s.pac.encMin)) 2) 90
        ctlState := .seek
        sub := .first
        pace := 0
        tmo := 0
        ctlStatus := .noneYet } }

/-- R161: in `UNCAL` a request changes only `CTL_STATUS`, and a frame that carries a legal one still returns 0. -/
def Obligations.GotoAngleUncalibratedOnlySetsStatus : Prop :=
  ∀ s : State, s.pac.ctlState = .uncal →
    (∀ (a : Half) (d : Byte), exec (.gotoangle a d) s = .next { s with
      pac := { s.pac with ctlStatus := .notCalibrated } }) ∧
    ∀ b : FrameBody, WellFormed s.cfg (.motorangle b) = true →
      ∃ t, exec (.motorangle b) s = .next t ∧ t.strobes.resultCode = .ok ∧
        t.pac = { s.pac with ctlStatus := .notCalibrated }

/-- R162: the angle map. (a) every angle from 90 up acts as 90 and every angle from 0 down as 0; (b) angle 0 targets the
centre in both directions; (c) angle 90 targets half the range away; (d) every direction but `DIR_CW` does the same; (f) the
target lies between the limits when they are in order. -/
def Obligations.AngleMapProperties : Prop :=
  ∀ (s : State) (a : Half) (d d' : Byte), s.Inv → s.pac.ctlState = .ready →
    (90 ≤ a.toInt → exec (.gotoangle a d) s = exec (.gotoangle 90 d) s) ∧
    (a.toInt ≤ 0 → exec (.gotoangle a d) s = exec (.gotoangle 0 d) s) ∧
    (∀ t, exec (.gotoangle 0 d) s = .next t → t.pac.target = s.pac.encCenter) ∧
    (∀ t, s.pac.encMin ≤ s.pac.encMax → exec (.gotoangle 90 d) s = .next t →
      (t.pac.target - s.pac.encCenter).natAbs = (s.pac.encMax - s.pac.encMin).toNat / 2) ∧
    (d ≠ s.cfg.dirCw → d' ≠ s.cfg.dirCw → exec (.gotoangle a d) s = exec (.gotoangle a d') s) ∧
    (∀ t, s.pac.encMin ≤ s.pac.encMax → exec (.gotoangle a d) s = .next t →
      s.pac.encMin ≤ t.pac.target ∧ t.pac.target ≤ s.pac.encMax)

/-- R21: no write of a rule overflows the register it writes: under the invariant every value a rule writes is written as it
is. -/
def Obligations.NoRegisterWriteOverflows : Prop :=
  ∀ (p : Params) (r : Pac) (e : Int) (a : Half) (d : Byte), p.Wf → r.Wf p → FitsS p.encW e →
    narrowS p.encW e = e ∧
    narrowS p.encW (Int.tdiv (r.encMin + e) 2) = Int.tdiv (r.encMin + e) 2 ∧
    (r.calibrated = true → narrowS (p.encW + 1) (targetOf p r a d) = targetOf p r a d) ∧
    (matchCount p e r < p.calStableN → narrowU p.cntW (matchCount p e r) = matchCount p e r) ∧
    (r.pace + 1 < max p.calSettleTicks (max p.driveTicks p.stopTicks) →
      narrowU p.cntW (r.pace + 1) = r.pace + 1) ∧
    (r.tmo + 1 ≤ max p.calTimeoutTicks p.seekTimeoutTicks → narrowU p.cntW (r.tmo + 1) = r.tmo + 1) ∧
    (dutyBits p.calDuty).toNat = p.calDuty ∧
    (∀ m, (dutyBits (seekDutyOf p m)).toNat = seekDutyOf p m)

/-! ### TICK -/

/-- R166, R167, R169: a sweep step. Past the time limit the calibration is aborted; else the sample is counted; the sample
that completes the count is recorded as the limit and the motion stops, the second limit completing the calibration; a
sample that does not complete it is remembered. Nothing else changes. -/
def Obligations.SweepStepDetectsLimits : Prop :=
  ∀ s : State, s.Inv → s.pac.ctlState = .calib → s.pac.sub = .first ∨ s.pac.sub = .third →
    ((s.cfg.calTimeoutTicks ≠ 0 ∧ s.cfg.calTimeoutTicks < s.pac.tmo + 1) →
      exec .tick s = .next { s with
        pac := { s.pac with
          actDuty := 0, dbValid := false, dbCnt := 0, tmo := 0, pace := 0, ctlState := .uncal, sub := .first,
          ctlStatus := .calTimeout }
        strobes := Strobes.low }) ∧
    ∀ cnt : Nat,
      (cnt = if s.pac.dbValid = true ∧ (s.port.encPos - s.pac.dbLast).natAbs ≤ s.cfg.calTol
        then s.pac.dbCnt + 1 else 0) →
      ¬ (s.cfg.calTimeoutTicks ≠ 0 ∧ s.cfg.calTimeoutTicks < s.pac.tmo + 1) →
      (cnt < s.cfg.calStableN →
        exec .tick s = .next { s with
          pac := { s.pac with
            dbLast := s.port.encPos
            dbValid := true
            dbCnt := cnt
            tmo := if s.cfg.calTimeoutTicks ≠ 0 then s.pac.tmo + 1 else s.pac.tmo }
          strobes := Strobes.low }) ∧
      (s.cfg.calStableN ≤ cnt → s.pac.sub = .first →
        exec .tick s = .next { s with
          pac := { s.pac with
            actDuty := 0, dbValid := false, dbCnt := 0, tmo := 0, pace := 0, encMin := s.port.encPos,
            sub := .second }
          strobes := Strobes.low }) ∧
      (s.cfg.calStableN ≤ cnt → s.pac.sub = .third →
        exec .tick s = .next { s with
          pac := { s.pac with
            actDuty := 0, dbValid := false, dbCnt := 0, tmo := 0, pace := 0, encMax := s.port.encPos,
            encCenter := Int.tdiv (s.pac.encMin + s.port.encPos) 2, ctlState := .ready, sub := .first,
            ctlStatus := .calOk }
          strobes := Strobes.low })

/-- R166, R167: the debounce, in both sweeps, within the time limit if there is one. In a sweep that has no sample yet the
limit is found by the `CAL_STABLE_N + 1`-th of samples each within `CAL_TOL` of the one before it, which is recorded: the
first sweep as `ENC_MIN`, the second as `ENC_MAX`, with `ENC_CENTER`, which completes the calibration; and no `CAL_STABLE_N`
samples, whatever they are, find it. -/
def Obligations.DebounceNeedsSteadySamples : Prop :=
  ∀ (p : Params) (r : Pac) (es : List Int), p.Wf →
    (p.calTimeoutTicks ≠ 0 → r.tmo + es.length ≤ p.calTimeoutTicks) →
    r.ctlState = .calib → r.dbValid = false → (∀ e ∈ es, FitsS p.encW e) →
    (∀ (hne : es ≠ []), es.length = p.calStableN + 1 → es.IsChain (fun a b => (b - a).natAbs ≤ p.calTol) →
      (r.sub = .first →
        (r.ticks p es).ctlState = .calib ∧ (r.ticks p es).sub = .second ∧ (r.ticks p es).encMin = es.getLast hne ∧
          (r.ticks p es).actDuty = 0) ∧
      (r.sub = .third → FitsS p.encW r.encMin →
        (r.ticks p es).ctlState = .ready ∧ (r.ticks p es).sub = .first ∧ (r.ticks p es).ctlStatus = .calOk ∧
          (r.ticks p es).encMax = es.getLast hne ∧ (r.ticks p es).encMin = r.encMin ∧
          (r.ticks p es).encCenter = Int.tdiv (r.encMin + es.getLast hne) 2 ∧ (r.ticks p es).actDuty = 0)) ∧
    (es.length ≤ p.calStableN → r.sub ≠ .second →
      (r.ticks p es).ctlState = .calib ∧ (r.ticks p es).sub = r.sub ∧ (r.ticks p es).encMin = r.encMin ∧
        (r.ticks p es).encMax = r.encMax ∧ (r.ticks p es).encCenter = r.encCenter)

/-- R176: a settle step, and that the settle lasts exactly `CAL_SETTLE_TICKS` ticks, does not read `enc_pos` and does not
count toward the time limit. -/
def Obligations.SettleLastsItsTicks : Prop :=
  (∀ s : State, s.Inv → s.pac.ctlState = .calib → s.pac.sub = .second →
    exec .tick s = .next { s with
      pac :=
        if s.cfg.calSettleTicks ≤ s.pac.pace + 1 then
          { s.pac with sub := .third, actDir := true, actDuty := BitVec.ofNat 7 s.cfg.calDuty, pace := 0 }
        else { s.pac with pace := s.pac.pace + 1 }
      strobes := Strobes.low }) ∧
  ∀ (p : Params) (r : Pac) (es : List Int), p.Wf → r.ctlState = .calib → r.sub = .second → r.pace = 0 →
    (es.length < p.calSettleTicks → r.ticks p es = { r with pace := es.length }) ∧
    (es.length = p.calSettleTicks →
      r.ticks p es = { r with sub := .third, actDir := true, actDuty := BitVec.ofNat 7 p.calDuty, pace := 0 })

/-- R170 to R173: a SAMPLE step tests the time limit, then the range, then the tolerance, and else drives toward the target
at the duty of the mode. Nothing else changes. -/
def Obligations.SampleStepSteersToTarget : Prop :=
  ∀ s : State, s.Inv → s.pac.ctlState = .seek → s.pac.sub = .first →
    exec .tick s = .next { s with
      pac :=
        if s.cfg.seekTimeoutTicks ≠ 0 ∧ s.cfg.seekTimeoutTicks < s.pac.tmo + 1 then
          { s.pac with
            actDuty := 0, ctlState := .ready, sub := .first, pace := 0, tmo := 0, ctlStatus := .seekTimeout }
        else if s.pac.target < s.pac.encMin ∨ s.pac.encMax < s.pac.target then
          { s.pac with
            actDuty := 0, ctlState := .ready, sub := .first, pace := 0, tmo := 0, ctlStatus := .rangeFault }
        else if (s.port.encPos - s.pac.target).natAbs ≤ s.cfg.seekTol then
          { s.pac with
            actDuty := 0, ctlState := .ready, sub := .first, pace := 0, tmo := 0, ctlStatus := .seekOk }
        else
          { s.pac with
            actDir := decide (s.port.encPos < s.pac.target)
            actDuty := BitVec.ofNat 7 (match s.cfg.seekDutyMode with
              | .fixed => s.cfg.seekDuty
              | .proportional => min 100 (s.cfg.kp * (s.port.encPos - s.pac.target).natAbs))
            sub := .second
            pace := 0
            tmo := if s.cfg.seekTimeoutTicks ≠ 0 then s.pac.tmo + 1 else s.pac.tmo }
      strobes := Strobes.low }

/-- R162 (f), R171: in a good state a SAMPLE step within its time limit ends the seek with `RANGE_FAULT` exactly when
`ENC_MAX < ENC_MIN`, with the actuator stopped and the calibration kept. -/
def Obligations.RangeFaultExactlyWhenLimitsReversed : Prop :=
  ∀ s : State, s.Inv → s.pac.ctlState = .seek → s.pac.sub = .first →
    (s.cfg.seekTimeoutTicks ≠ 0 → s.pac.tmo + 1 ≤ s.cfg.seekTimeoutTicks) →
    ∃ t, exec .tick s = .next t ∧
      (t.pac.ctlState = .ready ∧ t.pac.ctlStatus = .rangeFault ↔ s.pac.encMax < s.pac.encMin) ∧
      (s.pac.encMax < s.pac.encMin → t.pac.actDuty = 0 ∧ t.pac.encMin = s.pac.encMin ∧
        t.pac.encMax = s.pac.encMax ∧ t.pac.encCenter = s.pac.encCenter)

/-- R174: a DRIVE step and a STOP step; neither reads `enc_pos`. Nothing else changes. -/
def Obligations.DriveAndStopStepsPace : Prop :=
  ∀ s : State, s.Inv → s.pac.ctlState = .seek →
    ((s.cfg.seekTimeoutTicks ≠ 0 ∧ s.cfg.seekTimeoutTicks < s.pac.tmo + 1) →
      exec .tick s = .next { s with
        pac := { s.pac with
          actDuty := 0, ctlState := .ready, sub := .first, pace := 0, tmo := 0, ctlStatus := .seekTimeout }
        strobes := Strobes.low }) ∧
    (¬ (s.cfg.seekTimeoutTicks ≠ 0 ∧ s.cfg.seekTimeoutTicks < s.pac.tmo + 1) →
      (s.pac.sub = .second → exec .tick s = .next { s with
        pac :=
          if s.cfg.driveTicks ≤ s.pac.pace + 1 then
            { s.pac with
              actDuty := 0, sub := .third, pace := 0,
              tmo := if s.cfg.seekTimeoutTicks ≠ 0 then s.pac.tmo + 1 else s.pac.tmo }
          else
            { s.pac with
              pace := s.pac.pace + 1, tmo := if s.cfg.seekTimeoutTicks ≠ 0 then s.pac.tmo + 1 else s.pac.tmo }
        strobes := Strobes.low }) ∧
      (s.pac.sub = .third → exec .tick s = .next { s with
        pac :=
          if s.cfg.stopTicks ≤ s.pac.pace + 1 then
            { s.pac with
              sub := .first, pace := 0,
              tmo := if s.cfg.seekTimeoutTicks ≠ 0 then s.pac.tmo + 1 else s.pac.tmo }
          else
            { s.pac with
              pace := s.pac.pace + 1, tmo := if s.cfg.seekTimeoutTicks ≠ 0 then s.pac.tmo + 1 else s.pac.tmo }
        strobes := Strobes.low }))

/-- R174: one pulse. With no time limit, from the end of the SAMPLE step that switches the drive on, the actuator stays as it
is for `DRIVE_TICKS - 1` ticks, is stopped by the `DRIVE_TICKS`-th, and after `DRIVE_TICKS + STOP_TICKS` ticks the next
SAMPLE is due, whatever the encoder reads meanwhile. -/
def Obligations.PulseLastsItsTicks : Prop :=
  ∀ (p : Params) (r : Pac) (es : List Int), p.Wf → p.seekTimeoutTicks = 0 →
    r.ctlState = .seek → r.sub = .second → r.pace = 0 →
    (es.length < p.driveTicks → r.ticks p es = { r with pace := es.length }) ∧
    (p.driveTicks ≤ es.length → es.length < p.driveTicks + p.stopTicks →
      r.ticks p es = { r with actDuty := 0, sub := .third, pace := es.length - p.driveTicks }) ∧
    (es.length = p.driveTicks + p.stopTicks → r.ticks p es = { r with actDuty := 0, sub := .first, pace := 0 })

/-- R175: with a seek time limit of T ticks a seek has ended after T + 1 ticks, whatever the encoder reads: the machine runs
T + 1 steps, is `READY`, stopped, its calibration kept. -/
def Obligations.SeekTimeLimitEndsSeek : Prop :=
  ∀ (s : State) (ds rest : List Drive), s.Inv → s.pac.ctlState = .seek → s.pac.tmo = 0 →
    s.cfg.seekTimeoutTicks ≠ 0 → s.inbox = ds ++ rest → ds.length = s.cfg.seekTimeoutTicks + 1 →
    (∀ d ∈ ds, OnlyTick d) →
    ∃ t, Sys2Proof.core.run ds.length s = .next t ∧ t.pac.ctlState = .ready ∧ t.pac.actDuty = 0 ∧
      t.pac.encMin = s.pac.encMin ∧ t.pac.encMax = s.pac.encMax ∧ t.pac.encCenter = s.pac.encCenter

/-- R169, R176: with a calibration time limit of T ticks a calibration has ended after 2 (T + 1) ticks of sweeps and the
settle's ticks, whatever the encoder reads. -/
def Obligations.CalibrationTimeLimitEndsCalibration : Prop :=
  ∀ (p : Params) (r : Pac) (es : List Int), p.Wf → p.calTimeoutTicks ≠ 0 →
    r.ctlState = .calib → r.sub = .first → r.tmo = 0 →
    es.length = 2 * (p.calTimeoutTicks + 1) + p.calSettleTicks →
    (r.ticks p es).Idle ∧ (r.ticks p es).actDuty = 0 ∧
      ((r.ticks p es).ctlStatus = .calOk ∨ (r.ticks p es).ctlStatus = .calTimeout)

/-- R231: with no time limit a seek whose samples never come within tolerance of a target in range never ends, and a sweep
whose samples never settle never ends. -/
def Obligations.BusyMayLastForEver : Prop :=
  ∀ (p : Params) (r : Pac) (es : List Int),
    (p.seekTimeoutTicks = 0 → r.ctlState = .seek → r.encMin ≤ r.target → r.target ≤ r.encMax →
      (∀ e ∈ es, p.seekTol < (e - r.target).natAbs) → (r.ticks p es).ctlState = .seek) ∧
    (p.calTimeoutTicks = 0 → p.Wf → r.ctlState = .calib → r.sub ≠ .second → r.dbValid = false →
      (∀ e ∈ es, FitsS p.encW e) → es.IsChain (fun a b => p.calTol < (b - a).natAbs) →
      (r.ticks p es).ctlState = .calib ∧ (r.ticks p es).sub = r.sub)
end

