-- ==== Sys2Proof/Laws/Arith.lean ====
section
/-! SUPPORT. The arithmetic of the controller: division toward zero, narrowing, the time-limit helpers. -/

namespace Sys2Proof.Machine

open Sys2Proof.Config

/-- `tdiv` by 2 as the linear facts `omega` uses. -/
theorem tdiv_two_spec (a : Int) :
    (0 ≤ a → 2 * tdiv a 2 ≤ a ∧ a ≤ 2 * tdiv a 2 + 1) ∧ (a ≤ 0 → 2 * tdiv a 2 - 1 ≤ a ∧ a ≤ 2 * tdiv a 2) := by
  unfold tdiv
  rcases Int.le_total 0 a with h | h
  · rw [Int.tdiv_eq_ediv_of_nonneg h]
    omega
  · have h' : Int.tdiv a 2 = -((-a) / 2) := by
      rw [← Int.tdiv_eq_ediv_of_nonneg (by omega), Int.neg_tdiv]
      omega
    rw [h']
    omega

/-- A value of the register's width is written as it is. -/
theorem narrowS_of_fits {w : Nat} {v : Int} (hw : 1 ≤ w) (h : FitsS w v) : narrowS w v = v := by
  obtain ⟨k, rfl⟩ : ∃ k, w = k + 1 := ⟨w - 1, by omega⟩
  obtain ⟨h1, h2⟩ := h
  simp only [Nat.add_sub_cancel] at h1 h2
  have hp : (2 : Int) ^ (k + 1) = 2 * 2 ^ k := by rw [pow_succ]; ring
  have hpn : (2 : Nat) ^ (k + 1) = 2 * 2 ^ k := by rw [pow_succ]; ring
  unfold narrowS
  have hcast : ((2 ^ (k + 1) : Nat) : Int) = 2 * 2 ^ k := by push_cast; exact hp
  apply Int.bmod_eq_of_le
  · rw [hcast]; omega
  · rw [hcast]; omega

/-- Whatever is written, the register holds a value of its width. -/
theorem narrowS_fits {w : Nat} (v : Int) (hw : 1 ≤ w) : FitsS w (narrowS w v) := by
  obtain ⟨k, rfl⟩ : ∃ k, w = k + 1 := ⟨w - 1, by omega⟩
  have hp : (2 : Int) ^ (k + 1) = 2 * 2 ^ k := by rw [pow_succ]; ring
  have hcast : ((2 ^ (k + 1) : Nat) : Int) = 2 * 2 ^ k := by push_cast; exact hp
  have hpos : 0 < 2 ^ (k + 1) := Nat.two_pow_pos _
  have h1 := Int.le_bmod (x := v) hpos
  have h2 := Int.bmod_lt (x := v) hpos
  unfold FitsS narrowS
  simp only [Nat.add_sub_cancel]
  rw [hcast] at h1 h2
  constructor <;> omega

theorem narrowU_lt (w v : Nat) : narrowU w v < 2 ^ w := Nat.mod_lt _ (Nat.two_pow_pos w)

theorem narrowU_of_lt {w v : Nat} (h : v < 2 ^ w) : narrowU w v = v := Nat.mod_eq_of_lt h

@[simp] theorem limitPassed_eq_true {limit tmo : Nat} :
    limitPassed limit tmo = true ↔ limit ≠ 0 ∧ limit < tmo + 1 := by
  simp [limitPassed]

@[simp] theorem limitPassed_eq_false {limit tmo : Nat} :
    limitPassed limit tmo = false ↔ (limit ≠ 0 → tmo + 1 ≤ limit) := by
  simp [limitPassed]

@[simp] theorem tmoAfter_zero (p : Params) (tmo : Nat) : tmoAfter p 0 tmo = tmo := rfl

theorem tmoAfter_of_ne {p : Params} {limit tmo : Nat} (h : limit ≠ 0) :
    tmoAfter p limit tmo = narrowU p.cntW (tmo + 1) := by
  simp [tmoAfter, h]

/-- A duty of at most 100 percent is written as it is. -/
theorem dutyBits_toNat {d : Nat} (h : d ≤ 100) : (dutyBits d).toNat = d := by
  simp [dutyBits]
  omega

/-- The clamped angle lies in [0, 90]. -/
theorem clampInt_bounds (v : Int) : 0 ≤ clampInt v clampLo clampHi ∧ clampInt v clampLo clampHi ≤ 90 := by
  unfold clampInt clampLo clampHi
  split
  · omega
  · split <;> omega

/-- The duty of a pulse is at most 100 under legal parameters. -/
theorem seekDutyOf_le {p : Params} (hp : p.Wf) (m : Nat) : seekDutyOf p m ≤ 100 := by
  unfold seekDutyOf
  split
  · exact hp.seekDuty_le
  · exact Nat.min_le_left _ _

/-- The duty of a pulse is at least 1 for an error that is not 0. -/
theorem seekDutyOf_pos {p : Params} (hp : p.Wf) {m : Nat} (hm : 1 ≤ m) : 1 ≤ seekDutyOf p m := by
  unfold seekDutyOf
  split
  · exact hp.seekDuty_pos
  · have := Nat.mul_le_mul hp.kp_pos hm
    omega

/-! ### Values that fit -/

theorem fitsS_zero {w : Nat} : FitsS w 0 := by
  have h : (0 : Int) < 2 ^ (w - 1) := by positivity
  constructor <;> omega

/-- One more bit holds what fewer bits hold. -/
theorem fitsS_succ {w : Nat} {v : Int} (hw : 2 ≤ w) (h : FitsS w v) : FitsS (w + 1) v := by
  obtain ⟨k, rfl⟩ : ∃ k, w = k + 2 := ⟨w - 2, by omega⟩
  unfold FitsS at *
  simp only [Nat.add_sub_cancel, show k + 2 - 1 = k + 1 from rfl] at *
  have hp : (2 : Int) ^ (k + 2) = 2 * 2 ^ (k + 1) := by rw [pow_succ]; ring
  have : (0 : Int) < 2 ^ (k + 1) := by positivity
  omega

/-- The midpoint of two values fits where they fit. -/
theorem fitsS_midpoint {w : Nat} {a b : Int} (ha : FitsS w a) (hb : FitsS w b) : FitsS w (tdiv (a + b) 2) := by
  unfold FitsS at *
  have := tdiv_two_spec (a + b)
  rcases Int.le_total 0 (a + b) with h | h
  · have := this.1 h; omega
  · have := this.2 h; omega

theorem fitsS_between {w : Nat} {a b v : Int} (ha : FitsS w a) (hb : FitsS w b)
    (h : (a ≤ v ∧ v ≤ b) ∨ (b ≤ v ∧ v ≤ a)) : FitsS w v := by
  unfold FitsS at *
  omega

/-- `TMO` after a tick within a limit that fits its counter: the plain count. -/
theorem tmoAfter_eq {p : Params} {limit tmo : Nat} (hl : limit < 2 ^ p.cntW - 1) (h : limitPassed limit tmo = false) :
    tmoAfter p limit tmo = if limit ≠ 0 then tmo + 1 else tmo := by
  rw [limitPassed_eq_false] at h
  by_cases h0 : limit = 0
  · simp [h0]
  · have := h h0
    rw [tmoAfter_of_ne h0, if_pos h0]
    exact narrowU_of_lt (by omega)

/-- The clamp of R160 as a maximum of a minimum. -/
theorem clampInt_eq (v : Int) : clampInt v clampLo clampHi = max 0 (min 90 v) := by
  unfold clampInt clampLo clampHi
  split
  · omega
  · split <;> omega

/-! ### The angle map (R160, R162) -/

/-- The term `half` lies between 0 and half the range, on the range's side of 0. -/
theorem halfTerm_bounds (lo hi : Int) (a : Half) :
    (lo ≤ hi → 0 ≤ halfTerm lo hi a ∧ 2 * halfTerm lo hi a ≤ hi - lo) ∧
    (hi ≤ lo → halfTerm lo hi a ≤ 0 ∧ hi - lo ≤ 2 * halfTerm lo hi a) := by
  obtain ⟨h0, h90⟩ := clampInt_bounds a.toInt
  have key : ∀ c r : Int, 0 ≤ c → c ≤ 90 → 0 ≤ r →
      0 ≤ tdiv (tdiv (c * r) 2) 90 ∧ 2 * tdiv (tdiv (c * r) 2) 90 ≤ r := by
    intro c r h0 h90 hr
    have hcr : 0 ≤ c * r := mul_nonneg h0 hr
    have hcr2 : c * r ≤ 90 * r := mul_le_mul_of_nonneg_right h90 hr
    unfold tdiv
    rw [Int.tdiv_eq_ediv_of_nonneg hcr, Int.tdiv_eq_ediv_of_nonneg (by omega)]
    omega
  constructor
  · intro h
    exact key _ _ h0 h90 (by omega)
  · intro h
    have := key _ (lo - hi) h0 h90 (by omega)
    have e : halfTerm lo hi a = - tdiv (tdiv (clampInt a.toInt clampLo clampHi * (lo - hi)) 2) 90 := by
      unfold halfTerm tdiv
      have : clampInt a.toInt clampLo clampHi * (hi - lo) = -(clampInt a.toInt clampLo clampHi * (lo - hi)) := by ring
      rw [this, Int.neg_tdiv, Int.neg_tdiv]
    rw [e]
    omega

/-- With the centre in the middle the target lies between the limits, in whichever order they are. -/
theorem targetOf_bounds {p : Params} {r : Pac} (hm : r.encCenter = tdiv (r.encMin + r.encMax) 2) (a : Half) (d : Byte) :
    (r.encMin ≤ r.encMax → r.encMin ≤ targetOf p r a d ∧ targetOf p r a d ≤ r.encMax) ∧
    (r.encMax ≤ r.encMin → r.encMax ≤ targetOf p r a d ∧ targetOf p r a d ≤ r.encMin) := by
  have h := halfTerm_bounds r.encMin r.encMax a
  have ht := tdiv_two_spec (r.encMin + r.encMax)
  unfold targetOf
  rw [hm]
  constructor
  all_goals
    intro hle
    have := h.1
    have := h.2
    split <;> rcases Int.le_total 0 (r.encMin + r.encMax) with h' | h' <;> have := ht.1 <;> have := ht.2 <;> omega

/-- The midpoint lies strictly between the limits exactly when they are at least 2 counts apart (`spec/10_state.md`
R24). -/
theorem midpoint_strictly_between_iff (a b : Int) :
    (a < tdiv (a + b) 2 ∧ tdiv (a + b) 2 < b) ↔ 2 ≤ b - a := by
  have h := tdiv_two_spec (a + b)
  omega

end Sys2Proof.Machine
end

