-- ==== Sys2Proof/Laws/Checksum.lean ====
section
/-! SUPPORT. The checksum parameter: what its check of CK-P3 decides, and which function each instance is
(`spec/40_checksum.md` R101). -/

namespace Sys2Proof.Machine

open Sys2Proof.Config

theorem mem_byteLists {n : Nat} {l : List Byte} : l ∈ byteLists n ↔ l.length = n := by
  induction n generalizing l with
  | zero => simp [byteLists]
  | succ n ih =>
    simp only [byteLists, List.mem_flatMap, ih, List.mem_map, List.mem_range]
    constructor
    · rintro ⟨l', h, b, _, rfl⟩
      simp [h]
    · cases l with
      | nil => simp
      | cons b l => exact fun h => ⟨l, by simpa using h, b.toNat, b.isLt, by simp⟩

/-- The finite check decides CK-P3. -/
theorem tellsSingleBits_iff {f : List Byte → Half} : tellsSingleBits f = true ↔ SingleBitSensitive f := by
  simp only [tellsSingleBits, List.all_eq_true, mem_byteLists, List.mem_range, bne_iff_ne]
  exact ⟨fun h l hl j k hj hk => h l hl j hj k hk, fun h l hl j hj k hk => h l hl j k hj hk⟩

/-- Everything the function of an instance can be: `SUM16`, or a free function that has CK-P3. -/
theorem ckFunction_cases (c : CkInstance) :
    ckFunction c = sum16 ∨ ∃ k, c = .other k ∧ SingleBitSensitive (otherCk16 k) ∧ ckFunction c = otherCk16 k := by
  cases c with
  | sum16 => exact .inl rfl
  | other k =>
    by_cases h : tellsSingleBits (otherCk16 k) = true
    · exact .inr ⟨k, rfl, tellsSingleBits_iff.1 h, if_pos h⟩
    · exact .inl (if_neg h)

/-- No function with CK-P3 is shut out. -/
theorem ckFunction_other {k : Nat} (h : SingleBitSensitive (otherCk16 k)) : ckFunction (.other k) = otherCk16 k :=
  if_pos (tellsSingleBits_iff.2 h)

@[simp] theorem ck16_nil (p : Params) : ck16 p [] = p.ckBase := rfl

theorem ck16_cons (p : Params) (b : Byte) (l : List Byte) : ck16 p (b :: l) = ckFunction p.ck (b :: l) := rfl

@[simp] theorem ckFunction_sum16 : ckFunction .sum16 = sum16 := rfl

end Sys2Proof.Machine
end

