-- ==== Sys2Proof/Laws/Memory.lean ====
section
/-! SUPPORT. The frame buffer: a store is read back, leaves every other byte alone and keeps the canonical form; no read of
DECODE is out of range (`spec/20_memory.md` R55). -/

namespace Sys2Proof.Machine

open Sys2Proof.Config

@[simp] theorem Memory.get_nil (a : Nat) : Memory.get [] a = unlistedByte := rfl

theorem Memory.get_cons (c : Host.Cell) (m : Memory) (a : Nat) :
    Memory.get (c :: m) a = if c.1 = a then c.2 else Memory.get m a := rfl

theorem Memory.wf_nil : Memory.wf [] := by simp [Memory.wf]

theorem Memory.wf_cons {c : Host.Cell} {m : Memory} :
    Memory.wf (c :: m) ↔ (∀ d ∈ m, c.1 < d.1) ∧ c.1 < frameBytes ∧ c.2 ≠ unlistedByte ∧ Memory.wf m := by
  simp only [Memory.wf, List.pairwise_cons, List.mem_cons, forall_eq_or_imp]
  tauto

/-- An address below every listed one is unlisted. -/
theorem Memory.get_of_lt {m : Memory} {a : Nat} (h : ∀ d ∈ m, a < d.1) : Memory.get m a = unlistedByte := by
  induction m with
  | nil => rfl
  | cons c m ih =>
    have hc := h c (by simp)
    rw [Memory.get_cons, if_neg (by omega), ih fun d hd => h d (by simp [hd])]

/-- A store leaves every other byte alone. -/
theorem Memory.get_set_other {m : Memory} {a a' : Nat} {b : Byte} (h : a' ≠ a) :
    Memory.get (Memory.set a b m) a' = Memory.get m a' := by
  induction m with
  | nil => unfold Memory.set; split <;> simp [Memory.get_cons, Ne.symm h]
  | cons c m ih =>
    unfold Memory.set
    split
    · split <;> simp [Memory.get_cons, Ne.symm h]
    · split
      · rename_i hc
        have hne : ¬ c.1 = a' := by rw [hc]; exact Ne.symm h
        split <;> simp [Memory.get_cons, Ne.symm h, hne]
      · simp [Memory.get_cons, ih]

/-- A store is read back. -/
theorem Memory.get_set_same {m : Memory} {a : Nat} {b : Byte} (h : m.wf) :
    Memory.get (Memory.set a b m) a = b := by
  induction m with
  | nil =>
    unfold Memory.set
    split
    · next hb => rw [Memory.get_nil, hb]
    · rw [Memory.get_cons, if_pos rfl]
  | cons c m ih =>
    obtain ⟨hlt, -, -, hm⟩ := Memory.wf_cons.1 h
    unfold Memory.set
    split
    · next hac =>
      split
      · next hb =>
        rw [Memory.get_cons, if_neg (by omega), hb]
        exact Memory.get_of_lt fun d hd => Nat.lt_trans hac (hlt d hd)
      · rw [Memory.get_cons, if_pos rfl]
    · split
      · next hca =>
        split
        · next hb => rw [hb]; exact Memory.get_of_lt fun d hd => hca ▸ hlt d hd
        · rw [Memory.get_cons, if_pos rfl]
      · next hca => rw [Memory.get_cons, if_neg hca, ih hm]

/-- The addresses a store can list. -/
theorem Memory.mem_set {m : Memory} {a : Nat} {b : Byte} {d : Host.Cell} (h : d ∈ Memory.set a b m) :
    d ∈ m ∨ d = (a, b) := by
  induction m with
  | nil =>
    unfold Memory.set at h
    split at h <;> simp_all
  | cons c m ih =>
    unfold Memory.set at h
    split at h
    · split at h <;> simp_all
      tauto
    · split at h
      · split at h <;> simp_all
        tauto
      · simp only [List.mem_cons] at h ⊢
        rcases h with h | h
        · exact .inl (.inl h)
        · rcases ih h with h | h
          · exact .inl (.inr h)
          · exact .inr h

/-- A store at an address of the buffer keeps the canonical form. -/
theorem Memory.set_wf {m : Memory} {a : Nat} {b : Byte} (ha : a < frameBytes) (h : m.wf) :
    (Memory.set a b m).wf := by
  induction m with
  | nil =>
    unfold Memory.set
    split
    · exact Memory.wf_nil
    · next hb => exact Memory.wf_cons.2 ⟨by simp, ha, hb, Memory.wf_nil⟩
  | cons c m ih =>
    obtain ⟨hlt, hc, hcb, hm⟩ := Memory.wf_cons.1 h
    unfold Memory.set
    split
    · next hac =>
      split
      · exact h
      · next hb =>
        refine Memory.wf_cons.2 ⟨?_, ha, hb, h⟩
        intro d hd
        rcases List.mem_cons.1 hd with rfl | hd
        · exact hac
        · exact Nat.lt_trans hac (hlt d hd)
    · next hac =>
      split
      · next hca =>
        split
        · exact hm
        · next hb => exact Memory.wf_cons.2 ⟨fun d hd => hca ▸ hlt d hd, ha, hb, hm⟩
      · next hca =>
        refine Memory.wf_cons.2 ⟨?_, hc, hcb, ih hm⟩
        intro d hd
        rcases Memory.mem_set hd with hd | rfl
        · exact hlt d hd
        · show c.1 < a
          omega

/-- `HOST`'s stores of one step keep the canonical form. -/
theorem Memory.setAll_wf {m : Memory} (ws : List (Fin 12 × Byte)) (h : m.wf) : (m.setAll ws).wf := by
  induction ws generalizing m with
  | nil => exact h
  | cons w ws ih => exact ih (Memory.set_wf w.1.isLt h)

@[simp] theorem Memory.setAll_nil (m : Memory) : m.setAll [] = m := rfl

theorem Memory.setAll_cons (m : Memory) (w : Fin 12 × Byte) (ws : List (Fin 12 × Byte)) :
    m.setAll (w :: ws) = (Memory.set w.1.val w.2 m).setAll ws := rfl

/-- A byte that no store of a step names is left alone. -/
theorem Memory.get_setAll_other {m : Memory} {ws : List (Fin 12 × Byte)} {a : Nat} (h : ∀ w ∈ ws, w.1.val ≠ a) :
    (m.setAll ws).get a = m.get a := by
  induction ws generalizing m with
  | nil => rfl
  | cons w ws ih =>
    rw [Memory.setAll_cons, ih fun w' hw' => h w' (by simp [hw'])]
    exact Memory.get_set_other (Ne.symm (h w (by simp)))

/-- DECODE's reads are all in range: they answer the frame that stands in the buffer. -/
@[simp] theorem readFrame_eq (m : Memory) : readFrame m = .ok m.frame := rfl

end Sys2Proof.Machine
end

