-- ==== Sys2Proof/Laws/Frame.lean ====
section
/-! SUPPORT. Frames: bytes, fields and the u96 word are the same frame (`spec/30_encoding.md` R71), and what the masked
bits select (R73). -/

namespace Sys2Proof

open Sys2Proof.Config Sys2Proof.Machine

theorem Machine.leHalf_getLsbD (lo hi : Byte) (i : Nat) :
    (leHalf lo hi).getLsbD i = if i < 8 then lo.getLsbD i else hi.getLsbD (i - 8) :=
  BitVec.getLsbD_append.trans (by simp)

theorem Machine.loByte_getLsbD (v : Half) (i : Nat) : (loByte v).getLsbD i = (decide (i < 8) && v.getLsbD i) := by
  simp [loByte]

theorem Machine.hiByte_getLsbD (v : Half) (i : Nat) :
    (hiByte v).getLsbD i = (decide (i < 8) && v.getLsbD (8 + i)) := by
  simp [hiByte]

@[simp] theorem Machine.leHalf_lo_hi (v : Half) : leHalf (loByte v) (hiByte v) = v := by
  apply BitVec.eq_of_getLsbD_eq
  intro i hi
  rw [leHalf_getLsbD, loByte_getLsbD, hiByte_getLsbD]
  split
  · next h => simp [h]
  · rw [decide_eq_true (by omega), Bool.true_and]
    congr 1
    omega

@[simp] theorem Machine.loByte_leHalf (lo hi : Byte) : loByte (leHalf lo hi) = lo := by
  apply BitVec.eq_of_getLsbD_eq
  intro i hi
  rw [loByte_getLsbD, leHalf_getLsbD]
  simp [hi]

@[simp] theorem Machine.hiByte_leHalf (lo hi : Byte) : hiByte (leHalf lo hi) = hi := by
  apply BitVec.eq_of_getLsbD_eq
  intro i hi
  rw [hiByte_getLsbD, leHalf_getLsbD]
  simp [hi]

/-- Two bytes in little-endian order determine the half and are determined by it. -/
theorem Machine.leHalf_inj {lo hi lo' hi' : Byte} : leHalf lo hi = leHalf lo' hi' ↔ lo = lo' ∧ hi = hi' := by
  constructor
  · intro h
    have h1 := congrArg loByte h
    have h2 := congrArg hiByte h
    simpa using And.intro h1 h2
  · rintro ⟨rfl, rfl⟩
    rfl

@[simp] theorem frameOfBytes_frameToBytes (v : FrameView) : frameOfBytes (frameToBytes v) = some v := by
  simp [frameOfBytes, frameToBytes]

/-- Bytes that are a frame are the bytes of that frame. -/
theorem frameToBytes_of_frameOfBytes {l : List Byte} {v : FrameView} (h : frameOfBytes l = some v) :
    frameToBytes v = l := by
  unfold frameOfBytes at h
  split at h
  · cases h
    simp [frameToBytes]
  · cases h

@[simp] theorem frameOfBytes_bytes (m : Memory) : frameOfBytes m.bytes = some m.frame := rfl

@[simp] theorem commandOfId_id (c : Command) : commandOfId c.id = some c := by
  cases c <;> rfl

theorem commandOfId_eq_some {id : Byte} {c : Command} : commandOfId id = some c ↔ id = c.id := by
  constructor
  · unfold commandOfId
    intro h
    repeat' split at h
    all_goals first
      | (cases h; assumption)
      | cases h
  · rintro rfl
    exact commandOfId_id c

theorem commandOfId_eq_none {id : Byte} : commandOfId id = none ↔ id.toNat = 0 ∨ 6 ≤ id.toNat := by
  unfold commandOfId
  have h1 : id = 1 ↔ id.toNat = 1 := by rw [← BitVec.toNat_inj]; rfl
  have h2 : id = 2 ↔ id.toNat = 2 := by rw [← BitVec.toNat_inj]; rfl
  have h3 : id = 3 ↔ id.toNat = 3 := by rw [← BitVec.toNat_inj]; rfl
  have h4 : id = 4 ↔ id.toNat = 4 := by rw [← BitVec.toNat_inj]; rfl
  have h5 : id = 5 ↔ id.toNat = 5 := by rw [← BitVec.toNat_inj]; rfl
  simp only [h1, h2, h3, h4, h5]
  constructor
  · intro h
    repeat' split at h
    all_goals first
      | omega
      | cases h
  · intro h
    repeat' rw [if_neg (by omega)]

/-- The bytes of a command's frame: the markers as R53 spells them out. -/
theorem frameToBytes_commandFrame (c : Command) (b : FrameBody) :
    frameToBytes (commandFrame c b) =
      [0x55, 0xAA, c.id, b.p0, b.p1, b.p2, b.p3, b.count, loByte b.cks, hiByte b.cks, 0x0A, 0x0D] := by
  have h1 : loByte startMarker = 0x55 := rfl
  have h2 : hiByte startMarker = 0xAA := rfl
  have h3 : loByte endMarker = 0x0A := rfl
  have h4 : hiByte endMarker = 0x0D := rfl
  simp only [frameToBytes, commandFrame, h1, h2, h3, h4]

/-- What a frame selects, once and for all. -/
theorem select_eq_command {v : FrameView} {c : Command} :
    select v = .command c ↔ v.start = startMarker ∧ v.stop = endMarker ∧ v.id = c.id := by
  unfold select
  split
  · next h =>
    simp only [reduceCtorEq, false_iff]
    tauto
  · next h =>
    push Not at h
    split
    · next c' hc =>
      rw [commandOfId_eq_some] at hc
      simp only [Selection.command.injEq, h, true_and]
      constructor
      · rintro rfl; exact hc
      · intro h'
        have := hc.symm.trans h'
        revert this
        cases c' <;> cases c <;> decide
    · next hn =>
      simp only [reduceCtorEq, false_iff]
      rintro ⟨-, -, h'⟩
      rw [h', commandOfId_id] at hn
      cases hn

theorem select_eq_badSentinel {v : FrameView} :
    select v = .badSentinel ↔ v.start ≠ startMarker ∨ v.stop ≠ endMarker := by
  unfold select
  split
  · next h => simp [h]
  · next h =>
    simp only [h, iff_false]
    split <;> simp

theorem select_eq_unknownId {v : FrameView} :
    select v = .unknownId ↔
      v.start = startMarker ∧ v.stop = endMarker ∧ (v.id.toNat = 0 ∨ 6 ≤ v.id.toNat) := by
  rw [← commandOfId_eq_none]
  unfold select
  split
  · next h =>
    simp only [reduceCtorEq, false_iff]
    tauto
  · next h =>
    push Not at h
    split
    · next hc => simp [hc]
    · next hn => simp [hn, h]

@[simp] theorem select_commandFrame (c : Command) (b : FrameBody) : select (commandFrame c b) = .command c :=
  select_eq_command.2 ⟨rfl, rfl, rfl⟩

/-- The decoder on bytes that are a frame. -/
theorem decodeBytes_frameToBytes (v : FrameView) :
    decodeBytes (frameToBytes v) =
      match select v with
      | .badSentinel => .error .sentinel
      | .unknownId => .error (.unknownCommand v.id)
      | .command c => .ok (c.instr v.body) := by
  have h := frameOfBytes_frameToBytes v
  unfold decodeBytes
  split
  · next h' => simp [h] at h'
  · next v' h' =>
    obtain rfl : v = v' := by simpa [h] using h'
    cases select v <;> rfl

theorem Command.instr_inj {c c' : Command} {b b' : FrameBody} (h : c.instr b = c'.instr b') : c = c' ∧ b = b' := by
  cases c <;> cases c' <;> simp_all [Command.instr]

/-- The decoder answers a command exactly on the bytes of that command's frame. -/
theorem decodeBytes_eq_ok {l : List Byte} {i : Instr} :
    decodeBytes l = .ok i ↔ ∃ c b, i = c.instr b ∧ l = frameToBytes (commandFrame c b) := by
  constructor
  · intro h
    unfold decodeBytes at h
    split at h
    · cases h
    · next v hv =>
      split at h
      · cases h
      · cases h
      · next c hc =>
        obtain ⟨h1, h2, h3⟩ := select_eq_command.1 hc
        refine ⟨c, v.body, by simpa using h.symm, ?_⟩
        rw [← frameToBytes_of_frameOfBytes hv, commandFrame, ← h1, ← h2, ← h3]
  · rintro ⟨c, b, rfl, rfl⟩
    rw [decodeBytes_frameToBytes, select_commandFrame]
    rfl

/-! ### The u96 word (`spec/00_scope.md` R12) -/

/-- The bits of a frame's word, field by field. -/
theorem frameToWord_getLsbD (v : FrameView) (i : Nat) :
    (frameToWord v).getLsbD i =
      if i < 16 then v.start.getLsbD i
      else if i < 24 then v.id.getLsbD (i - 16)
      else if i < 32 then v.body.p0.getLsbD (i - 24)
      else if i < 40 then v.body.p1.getLsbD (i - 32)
      else if i < 48 then v.body.p2.getLsbD (i - 40)
      else if i < 56 then v.body.p3.getLsbD (i - 48)
      else if i < 64 then v.body.count.getLsbD (i - 56)
      else if i < 80 then v.body.cks.getLsbD (i - 64)
      else v.stop.getLsbD (i - 80) := by
  show BitVec.getLsbD (w := 16 + 16 + 8 + 8 + 8 + 8 + 8 + 8 + 16) (v.stop ++ v.body.cks ++ v.body.count ++ v.body.p3 ++
    v.body.p2 ++ v.body.p1 ++ v.body.p0 ++ v.id ++ v.start) i = _
  rw [BitVec.getLsbD_append, BitVec.getLsbD_append, BitVec.getLsbD_append, BitVec.getLsbD_append,
    BitVec.getLsbD_append, BitVec.getLsbD_append, BitVec.getLsbD_append, BitVec.getLsbD_append]
  by_cases h16 : i < 16
  · rw [if_pos (by omega), if_pos h16]
  rw [if_neg (by omega), if_neg h16]
  by_cases h24 : i < 24
  · rw [if_pos (by omega), if_pos h24]
  rw [if_neg (by omega), if_neg h24]
  by_cases h32 : i < 32
  · rw [if_pos (by omega), if_pos h32]
    congr 1
  rw [if_neg (by omega), if_neg h32]
  by_cases h40 : i < 40
  · rw [if_pos (by omega), if_pos h40]
    congr 1
  rw [if_neg (by omega), if_neg h40]
  by_cases h48 : i < 48
  · rw [if_pos (by omega), if_pos h48]
    congr 1
  rw [if_neg (by omega), if_neg h48]
  by_cases h56 : i < 56
  · rw [if_pos (by omega), if_pos h56]
    congr 1
  rw [if_neg (by omega), if_neg h56]
  by_cases h64 : i < 64
  · rw [if_pos (by omega), if_pos h64]
    congr 1
  rw [if_neg (by omega), if_neg h64]
  by_cases h80 : i < 80
  · rw [if_pos (by omega), if_pos h80]
    congr 1
  rw [if_neg (by omega), if_neg h80]
  congr 1

/-- Byte `k` of a frame's word is byte `k` of the frame. -/
theorem frameToWord_byte (v : FrameView) {k : Nat} (hk : k < 12) :
    (frameToWord v).extractLsb' (8 * k) 8 = (frameToBytes v).getD k 0 := by
  apply BitVec.eq_of_getLsbD_eq
  intro i hi
  rw [BitVec.getLsbD_extractLsb', frameToWord_getLsbD, decide_eq_true hi, Bool.true_and]
  have : k = 0 ∨ k = 1 ∨ k = 2 ∨ k = 3 ∨ k = 4 ∨ k = 5 ∨ k = 6 ∨ k = 7 ∨ k = 8 ∨ k = 9 ∨ k = 10 ∨ k = 11 := by
    omega
  rcases this with rfl | rfl | rfl | rfl | rfl | rfl | rfl | rfl | rfl | rfl | rfl | rfl
  all_goals
    repeat rw [if_neg (by omega)]
    try rw [if_pos (by omega)]
    simp only [frameToBytes, List.getD_cons_succ, List.getD_cons_zero, loByte_getLsbD, hiByte_getLsbD,
      decide_eq_true hi, Bool.true_and]
    try (congr 1; omega)

/-- The table's numbering of a frame's word gives the frame's bytes. -/
theorem wordBytes_frameToWord (v : FrameView) : wordBytes 12 (frameToWord v).toNat = frameToBytes v := by
  have hlen : (frameToBytes v).length = 12 := rfl
  apply List.ext_getElem
  · simp [wordBytes, hlen]
  · intro k h1 h2
    have hk : k < 12 := by simpa [wordBytes] using h1
    have := frameToWord_byte v hk
    rw [List.getD_eq_getElem _ _ (by omega)] at this
    rw [← this]
    simp only [wordBytes, List.getElem_map, List.getElem_range]
    rfl

/-! ### Storing a frame -/

/-- Twelve stored bytes are read back. -/
theorem Machine.Memory.get_setAll_storesOf {m : Memory} (h : m.wf) (bytes : List Byte) {k : Nat} (hk : k < 12) :
    (m.setAll (storesOf bytes)).get k = bytes.getD k 0 := by
  have key : ∀ (l : List (Fin 12)) (m : Memory), m.wf → ∀ j : Fin 12,
      (m.setAll (l.map fun i => (i, bytes.getD i.val unlistedByte))).get j.val =
        if j ∈ l then bytes.getD j.val unlistedByte else m.get j.val := by
    intro l
    induction l with
    | nil => intro m _ j; simp
    | cons i l ih =>
      intro m hm j
      rw [List.map_cons, Memory.setAll_cons, ih _ (Memory.set_wf i.isLt hm)]
      by_cases hj : j ∈ l
      · simp [hj]
      · by_cases hij : j = i
        · subst hij
          simp [hj, Memory.get_set_same hm]
        · have hne : j.val ≠ i.val := fun h => hij (Fin.ext h)
          simp [hj, hij, Memory.get_set_other hne]
  have := key (List.finRange 12) m h ⟨k, hk⟩
  simpa [storesOf, unlistedByte] using this

/-! ### The frame in the buffer -/

/-- The start marker, byte by byte (`spec/20_memory.md` R53). -/
theorem Machine.Memory.frame_start_eq (m : Memory) :
    m.frame.start = startMarker ↔ m.get 0 = 0x55 ∧ m.get 1 = 0xAA := by
  show leHalf _ _ = leHalf 0x55 0xAA ↔ _
  exact leHalf_inj

/-- The end marker, byte by byte (`spec/20_memory.md` R53). -/
theorem Machine.Memory.frame_stop_eq (m : Memory) :
    m.frame.stop = endMarker ↔ m.get 10 = 0x0A ∧ m.get 11 = 0x0D := by
  show leHalf _ _ = leHalf 0x0A 0x0D ↔ _
  exact leHalf_inj

/-- A buffer that holds a frame's bytes holds that frame. -/
theorem Machine.Memory.frame_of_bytes {m : Memory} {v : FrameView}
    (h : ∀ k, k < 12 → m.get k = (frameToBytes v).getD k 0) : m.frame = v := by
  have hb : m.bytes = frameToBytes v := by
    apply List.ext_getElem
    · rfl
    · intro k h1 h2
      have hk : k < 12 := by simpa [Memory.bytes] using h1
      simp only [Memory.bytes, List.getElem_map, List.getElem_range]
      rw [h k hk, List.getD_eq_getElem _ _ h2]
  have := frameOfBytes_bytes m
  rw [hb, frameOfBytes_frameToBytes] at this
  exact (Option.some.inj this).symm

theorem Command.id_inj {c c' : Command} (h : c.id = c'.id) : c = c' := by
  have := congrArg commandOfId h
  simpa using this

end Sys2Proof
end

