-- ==== Sys2Proof/Laws/State.lean ====
section
/-! SUPPORT. One lemma per field per update of the state: what an update writes and what it leaves. -/

namespace Sys2Proof.Machine

open Sys2Proof.Config

/-! ### `State.setPac` -/

@[simp] theorem State.setPac_pac (s : State) (r : Pac) : (s.setPac r).pac = r := rfl
@[simp] theorem State.setPac_fb (s : State) (r : Pac) : (s.setPac r).fb = s.fb := rfl
@[simp] theorem State.setPac_port (s : State) (r : Pac) : (s.setPac r).port = s.port := rfl
@[simp] theorem State.setPac_strobes (s : State) (r : Pac) : (s.setPac r).strobes = s.strobes := rfl
@[simp] theorem State.setPac_encFrame (s : State) (r : Pac) : (s.setPac r).encFrame = s.encFrame := rfl
@[simp] theorem State.setPac_encCk (s : State) (r : Pac) : (s.setPac r).encCk = s.encCk := rfl
@[simp] theorem State.setPac_ckResult (s : State) (r : Pac) : (s.setPac r).ckResult = s.ckResult := rfl
@[simp] theorem State.setPac_records (s : State) (r : Pac) : (s.setPac r).records = s.records := rfl
@[simp] theorem State.setPac_inbox (s : State) (r : Pac) : (s.setPac r).inbox = s.inbox := rfl
@[simp] theorem State.setPac_stepNo (s : State) (r : Pac) : (s.setPac r).stepNo = s.stepNo := rfl
@[simp] theorem State.setPac_cfg (s : State) (r : Pac) : (s.setPac r).cfg = s.cfg := rfl

/-! ### `State.setStrobes` -/

@[simp] theorem State.setStrobes_pac (s : State) (q : Strobes) : (s.setStrobes q).pac = s.pac := rfl
@[simp] theorem State.setStrobes_fb (s : State) (q : Strobes) : (s.setStrobes q).fb = s.fb := rfl
@[simp] theorem State.setStrobes_port (s : State) (q : Strobes) : (s.setStrobes q).port = s.port := rfl
@[simp] theorem State.setStrobes_strobes (s : State) (q : Strobes) : (s.setStrobes q).strobes = q := rfl
@[simp] theorem State.setStrobes_encFrame (s : State) (q : Strobes) : (s.setStrobes q).encFrame = s.encFrame := rfl
@[simp] theorem State.setStrobes_encCk (s : State) (q : Strobes) : (s.setStrobes q).encCk = s.encCk := rfl
@[simp] theorem State.setStrobes_ckResult (s : State) (q : Strobes) : (s.setStrobes q).ckResult = s.ckResult := rfl
@[simp] theorem State.setStrobes_records (s : State) (q : Strobes) : (s.setStrobes q).records = s.records := rfl
@[simp] theorem State.setStrobes_inbox (s : State) (q : Strobes) : (s.setStrobes q).inbox = s.inbox := rfl
@[simp] theorem State.setStrobes_stepNo (s : State) (q : Strobes) : (s.setStrobes q).stepNo = s.stepNo := rfl
@[simp] theorem State.setStrobes_cfg (s : State) (q : Strobes) : (s.setStrobes q).cfg = s.cfg := rfl

/-! ### `State.record` -/

@[simp] theorem State.record_pac (s : State) (r : CallRecord) : (s.record r).pac = s.pac := rfl
@[simp] theorem State.record_fb (s : State) (r : CallRecord) : (s.record r).fb = s.fb := rfl
@[simp] theorem State.record_port (s : State) (r : CallRecord) : (s.record r).port = s.port := rfl
@[simp] theorem State.record_strobes (s : State) (r : CallRecord) : (s.record r).strobes = s.strobes := rfl
@[simp] theorem State.record_encFrame (s : State) (r : CallRecord) : (s.record r).encFrame = s.encFrame := rfl
@[simp] theorem State.record_encCk (s : State) (r : CallRecord) : (s.record r).encCk = s.encCk := rfl
@[simp] theorem State.record_ckResult (s : State) (r : CallRecord) : (s.record r).ckResult = s.ckResult := rfl
@[simp] theorem State.record_records (s : State) (r : CallRecord) : (s.record r).records = s.records ++ [r] := rfl
@[simp] theorem State.record_inbox (s : State) (r : CallRecord) : (s.record r).inbox = s.inbox := rfl
@[simp] theorem State.record_stepNo (s : State) (r : CallRecord) : (s.record r).stepNo = s.stepNo := rfl
@[simp] theorem State.record_cfg (s : State) (r : CallRecord) : (s.record r).cfg = s.cfg := rfl

/-! ### `State.setEncOut` -/

@[simp] theorem State.setEncOut_pac (s : State) (f : BitVec 96) (ck : Half) : (s.setEncOut f ck).pac = s.pac := rfl
@[simp] theorem State.setEncOut_fb (s : State) (f : BitVec 96) (ck : Half) : (s.setEncOut f ck).fb = s.fb := rfl
@[simp] theorem State.setEncOut_port (s : State) (f : BitVec 96) (ck : Half) : (s.setEncOut f ck).port = s.port := rfl
@[simp] theorem State.setEncOut_strobes (s : State) (f : BitVec 96) (ck : Half) : (s.setEncOut f ck).strobes = s.strobes := rfl
@[simp] theorem State.setEncOut_encFrame (s : State) (f : BitVec 96) (ck : Half) : (s.setEncOut f ck).encFrame = f := rfl
@[simp] theorem State.setEncOut_encCk (s : State) (f : BitVec 96) (ck : Half) : (s.setEncOut f ck).encCk = ck := rfl
@[simp] theorem State.setEncOut_ckResult (s : State) (f : BitVec 96) (ck : Half) : (s.setEncOut f ck).ckResult = s.ckResult := rfl
@[simp] theorem State.setEncOut_records (s : State) (f : BitVec 96) (ck : Half) : (s.setEncOut f ck).records = s.records := rfl
@[simp] theorem State.setEncOut_inbox (s : State) (f : BitVec 96) (ck : Half) : (s.setEncOut f ck).inbox = s.inbox := rfl
@[simp] theorem State.setEncOut_stepNo (s : State) (f : BitVec 96) (ck : Half) : (s.setEncOut f ck).stepNo = s.stepNo := rfl
@[simp] theorem State.setEncOut_cfg (s : State) (f : BitVec 96) (ck : Half) : (s.setEncOut f ck).cfg = s.cfg := rfl

/-! ### `State.setCkResult` -/

@[simp] theorem State.setCkResult_pac (s : State) (ck : Half) : (s.setCkResult ck).pac = s.pac := rfl
@[simp] theorem State.setCkResult_fb (s : State) (ck : Half) : (s.setCkResult ck).fb = s.fb := rfl
@[simp] theorem State.setCkResult_port (s : State) (ck : Half) : (s.setCkResult ck).port = s.port := rfl
@[simp] theorem State.setCkResult_strobes (s : State) (ck : Half) : (s.setCkResult ck).strobes = s.strobes := rfl
@[simp] theorem State.setCkResult_encFrame (s : State) (ck : Half) : (s.setCkResult ck).encFrame = s.encFrame := rfl
@[simp] theorem State.setCkResult_encCk (s : State) (ck : Half) : (s.setCkResult ck).encCk = s.encCk := rfl
@[simp] theorem State.setCkResult_ckResult (s : State) (ck : Half) : (s.setCkResult ck).ckResult = ck := rfl
@[simp] theorem State.setCkResult_records (s : State) (ck : Half) : (s.setCkResult ck).records = s.records := rfl
@[simp] theorem State.setCkResult_inbox (s : State) (ck : Half) : (s.setCkResult ck).inbox = s.inbox := rfl
@[simp] theorem State.setCkResult_stepNo (s : State) (ck : Half) : (s.setCkResult ck).stepNo = s.stepNo := rfl
@[simp] theorem State.setCkResult_cfg (s : State) (ck : Half) : (s.setCkResult ck).cfg = s.cfg := rfl

/-! ### `State.latch`: the state in which the operation of a step runs -/

@[simp] theorem State.latch_pac (s : State) : s.latch.pac = s.pac := rfl
@[simp] theorem State.latch_fb (s : State) : s.latch.fb = s.fb.setAll s.nextDrive.fbWrites := rfl
@[simp] theorem State.latch_port (s : State) : s.latch.port = Drive.levels s.cfg s.nextDrive := rfl
@[simp] theorem State.latch_strobes (s : State) : s.latch.strobes = Strobes.low := rfl
@[simp] theorem State.latch_encFrame (s : State) : s.latch.encFrame = frameToWord (encodeFrame s.cfg s.nextDrive.encPayload s.nextDrive.encId) := rfl
@[simp] theorem State.latch_encCk (s : State) : s.latch.encCk = (encodeBody s.cfg s.nextDrive.encPayload s.nextDrive.encId).cks := rfl
@[simp] theorem State.latch_ckResult (s : State) : s.latch.ckResult = s.ckResult := rfl
@[simp] theorem State.latch_records (s : State) : s.latch.records = s.records := rfl
@[simp] theorem State.latch_inbox (s : State) : s.latch.inbox = s.inbox.tail := rfl
@[simp] theorem State.latch_stepNo (s : State) : s.latch.stepNo = s.stepNo + 1 := rfl
@[simp] theorem State.latch_cfg (s : State) : s.latch.cfg = s.cfg := rfl

/-- ENCODE's outputs on a latched state follow their inputs already. -/
@[simp] theorem State.latch_followEncode (s : State) : s.latch.followEncode = s.latch := rfl

/-- The latched one-step outputs are low already. -/
@[simp] theorem State.latch_setStrobes_low (s : State) : s.latch.setStrobes Strobes.low = s.latch := rfl

/-! ### `State.resetRegs` -/

@[simp] theorem State.resetRegs_pac (s : State) : s.resetRegs.pac = Pac.reset := rfl
@[simp] theorem State.resetRegs_fb (s : State) : s.resetRegs.fb = s.fb := rfl
@[simp] theorem State.resetRegs_port (s : State) : s.resetRegs.port = s.port := rfl
@[simp] theorem State.resetRegs_strobes (s : State) : s.resetRegs.strobes = Strobes.low := rfl
@[simp] theorem State.resetRegs_encFrame (s : State) : s.resetRegs.encFrame = s.encFrame := rfl
@[simp] theorem State.resetRegs_encCk (s : State) : s.resetRegs.encCk = s.encCk := rfl
@[simp] theorem State.resetRegs_ckResult (s : State) : s.resetRegs.ckResult = s.ckResult := rfl
@[simp] theorem State.resetRegs_records (s : State) : s.resetRegs.records = s.records := rfl
@[simp] theorem State.resetRegs_inbox (s : State) : s.resetRegs.inbox = s.inbox := rfl
@[simp] theorem State.resetRegs_stepNo (s : State) : s.resetRegs.stepNo = s.stepNo := rfl
@[simp] theorem State.resetRegs_cfg (s : State) : s.resetRegs.cfg = s.cfg := rfl

/-! ### The levels on the input ports -/

@[simp] theorem Drive.levels_rst (p : Params) (d : Drive) : (Drive.levels p d).rst = d.rst := rfl
@[simp] theorem Drive.levels_tick (p : Params) (d : Drive) : (Drive.levels p d).tick = d.tick := rfl
@[simp] theorem Drive.levels_decReq (p : Params) (d : Drive) : (Drive.levels p d).decReq = d.decReq := rfl
@[simp] theorem Drive.levels_framePresent (p : Params) (d : Drive) : (Drive.levels p d).framePresent = d.framePresent := rfl
@[simp] theorem Drive.levels_calReq (p : Params) (d : Drive) : (Drive.levels p d).calReq = d.calReq := rfl
@[simp] theorem Drive.levels_encPayload (p : Params) (d : Drive) : (Drive.levels p d).encPayload = d.encPayload := rfl
@[simp] theorem Drive.levels_encId (p : Params) (d : Drive) : (Drive.levels p d).encId = d.encId := rfl
@[simp] theorem Drive.levels_encPos (p : Params) (d : Drive) :
    (Drive.levels p d).encPos = narrowS p.encW d.encPos := rfl

/-! ### The inputs of the coming step -/

theorem State.nextDrive_of_cons {s : State} {d : Drive} {ds : List Drive} (h : s.inbox = d :: ds) :
    s.nextDrive = d := by
  simp [State.nextDrive, h]

/-! ### Status outputs (R27) -/

@[simp] theorem Pac.busy_eq_false {r : Pac} : r.busy = false ↔ r.ctlState = .uncal ∨ r.ctlState = .ready := by
  unfold Pac.busy
  cases r.ctlState <;> decide

@[simp] theorem Pac.busy_eq_true {r : Pac} : r.busy = true ↔ r.ctlState = .calib ∨ r.ctlState = .seek := by
  unfold Pac.busy
  cases r.ctlState <;> decide

@[simp] theorem Pac.calibrated_eq_true {r : Pac} :
    r.calibrated = true ↔ r.ctlState = .ready ∨ r.ctlState = .seek := by
  unfold Pac.calibrated
  cases r.ctlState <;> decide

end Sys2Proof.Machine
end

