-- ==== Sys2Proof/Laws/Ops.lean ====
section
/-! SUPPORT. One lemma per shared operation and per meaning of the validator: once and for all what it can answer. -/

namespace Sys2Proof.Machine

open Sys2Proof.Config

/-! ### The shared operations -/

theorem raiseRC_eq (c : ResultCode) (s : State) : raiseRC c s = .next (s.setStrobes (failedStrobes c)) := rfl

theorem returnOk_eq (s : State) : returnOk s = s.setStrobes (okStrobes none) := rfl

theorem callAndReturn_eq (r : CallRecord) (s : State) :
    callAndReturn r s = (s.setStrobes (okStrobes (some r))).record r := rfl

theorem whenIdle_of_idle {s : State} {k : State → Host.Outcome State Fault Refusal} (h : s.pac.Idle) :
    whenIdle s k = k s := by
  have hb : s.pac.busy = false := Pac.busy_eq_false.2 h
  simp [whenIdle, hb]

theorem whenIdle_of_busy {s : State} {k : State → Host.Outcome State Fault Refusal} (h : ¬ s.pac.Idle) :
    whenIdle s k = .next (s.setStrobes Strobes.low) := by
  have hb : s.pac.busy = true := by
    rw [← Bool.not_eq_false, Pac.busy_eq_false]
    exact h
  simp [whenIdle, hb, unserved]

theorem checksumStage_of_eq {id : Byte} {b : FrameBody} {s : State}
    {k : State → Host.Outcome State Fault Refusal} (h : ck16 s.cfg (coveredBytes id b) = b.cks) :
    checksumStage id b s k = k s := by
  simp [checksumStage, h]

theorem checksumStage_of_ne {id : Byte} {b : FrameBody} {s : State}
    {k : State → Host.Outcome State Fault Refusal} (h : ck16 s.cfg (coveredBytes id b) ≠ b.cks) :
    checksumStage id b s k = .next (s.setStrobes (failedStrobes .errChecksum)) := by
  simp [checksumStage, h, raiseRC_eq]

/-- The decoder's choice on the request vector of a state (R85). -/
theorem decodeVector_requestVector (s : State) :
    decodeVector s.requestVector =
      if s.port.rst then .encode
      else if s.pac.busy then (if s.port.tick then .tick else .encode)
      else if s.port.calReq then .calibrate
      else if s.port.decReq then .decode
      else .encode := by
  unfold State.requestVector
  generalize s.port.rst = r, s.pac.busy = b, s.port.tick = t, s.port.calReq = c, s.port.decReq = d
  revert r b t c d
  decide

/-- The choice of a step (R40) as one equation. -/
theorem step_eq (s : State) :
    step s =
      if s.nextDrive.rst then .next s.latch.resetRegs
      else if s.pac.busy then (if s.nextDrive.tick then execTick s.latch else .next s.latch)
      else if s.nextDrive.calReq then execCalibrate s.latch
      else if s.nextDrive.decReq then execDecode s.latch
      else .next s.latch := by
  have hexec : ∀ i : Instr, exec i s.latch = match i with
      | .calibrate => execCalibrate s.latch
      | .decode => execDecode s.latch
      | .tick => execTick s.latch
      | .encode => .next s.latch
      | i => exec i s.latch := by
    intro i
    cases i <;> rfl
  unfold step clocked
  rw [decodeVector_requestVector, hexec]
  simp only [State.latch_port, Drive.levels_rst, Drive.levels_tick, Drive.levels_calReq, Drive.levels_decReq,
    State.latch_pac]
  rcases Bool.eq_false_or_eq_true s.nextDrive.rst with hr | hr <;>
  rcases Bool.eq_false_or_eq_true s.pac.busy with hi | hi <;>
  rcases Bool.eq_false_or_eq_true s.nextDrive.tick with ht | ht <;>
  rcases Bool.eq_false_or_eq_true s.nextDrive.calReq with hc | hc <;>
  rcases Bool.eq_false_or_eq_true s.nextDrive.decReq with hd | hd <;>
  simp only [hr, hi, ht, hc, hd, if_true, if_false, Bool.false_eq_true]

/-- The five cases of a step (R40), once and for all. -/
theorem step_cases (s : State) :
    (s.nextDrive.rst = true ∧ step s = .next s.latch.resetRegs) ∨
    (s.nextDrive.rst = false ∧ s.pac.Idle ∧ s.nextDrive.calReq = true ∧ step s = execCalibrate s.latch) ∨
    (s.nextDrive.rst = false ∧ s.pac.Idle ∧ s.nextDrive.calReq = false ∧ s.nextDrive.decReq = true ∧
      step s = execDecode s.latch) ∨
    (s.nextDrive.rst = false ∧ ¬ s.pac.Idle ∧ s.nextDrive.tick = true ∧ step s = execTick s.latch) ∨
    (s.nextDrive.rst = false ∧ (s.pac.Idle → s.nextDrive.calReq = false ∧ s.nextDrive.decReq = false) ∧
      (¬ s.pac.Idle → s.nextDrive.tick = false) ∧ step s = .next s.latch) := by
  have hb : s.pac.busy = false ↔ s.pac.Idle := Pac.busy_eq_false
  rw [step_eq, ← hb]
  rcases Bool.eq_false_or_eq_true s.nextDrive.rst with hr | hr <;>
  rcases Bool.eq_false_or_eq_true s.pac.busy with hi | hi <;>
  rcases Bool.eq_false_or_eq_true s.nextDrive.tick with ht | ht <;>
  rcases Bool.eq_false_or_eq_true s.nextDrive.calReq with hc | hc <;>
  rcases Bool.eq_false_or_eq_true s.nextDrive.decReq with hd | hd <;>
  simp only [hr, hi, ht, hc, hd, if_true, if_false, Bool.false_eq_true, Bool.true_eq_false, true_and, false_and,
    true_or, or_true, not_true, not_false_iff, and_self, imp_self, implies_true, forall_const]

/-! ### The field checks -/

theorem motorIdLegal_eq_false {b : FrameBody} : motorIdLegal b = false ↔ b.p0 ≠ 1 ∧ b.p0 ≠ 2 := by
  simp [motorIdLegal]

theorem motorSpeedLegal_eq_false {b : FrameBody} : motorSpeedLegal b = false ↔ 100 < b.p1.toNat := by
  simp [motorSpeedLegal]

theorem motorDirLegal_eq_false {b : FrameBody} : motorDirLegal b = false ↔ b.p2 ≠ 0 ∧ b.p2 ≠ 1 := by
  simp [motorDirLegal]

theorem angleLegal_eq_false {p : Params} {b : FrameBody} :
    angleLegal p b = false ↔ angleOperand b < p.angleMin ∨ p.angleMax < angleOperand b := by
  simp [angleLegal, Classical.or_iff_not_imp_left]

theorem durationLegal_eq_false {b : FrameBody} : durationLegal b = false ↔ b.p1.toInt < 0 :=
  decide_eq_false_iff_not.trans not_le

theorem lightCodeLegal_eq_false {b : FrameBody} : lightCodeLegal b = false ↔ 7 < b.p1.toNat := by
  simp [lightCodeLegal]

/-! ### The command rules, once and for all -/

/-- Everything MOTOR's field checks and call can do (R131). -/
theorem motorStages_cases (b : FrameBody) (s : State) :
    (motorIdLegal b = false ∧ motorStages b s = .next (s.setStrobes (failedStrobes .errMotorId))) ∨
    (motorIdLegal b = true ∧ motorSpeedLegal b = false ∧
      motorStages b s = .next (s.setStrobes (failedStrobes .errMotorSpeed))) ∨
    (motorIdLegal b = true ∧ motorSpeedLegal b = true ∧ motorDirLegal b = false ∧
      motorStages b s = .next (s.setStrobes (failedStrobes .errMotorDir))) ∨
    (motorIdLegal b = true ∧ motorSpeedLegal b = true ∧ motorDirLegal b = true ∧
      motorStages b s = .next (callAndReturn (.speedSet b.p0 b.p1 b.p2) s)) := by
  unfold motorStages
  cases motorIdLegal b <;> cases motorSpeedLegal b <;> cases motorDirLegal b <;> simp [raiseRC_eq]

/-- Everything MOTORANGLE's check and call can do in an idle state (R133, R160, R161). -/
theorem motorangleStages_cases (b : FrameBody) {s : State} (h : s.pac.Idle) :
    (angleLegal s.cfg b = false ∧ motorangleStages b s = .next (s.setStrobes (failedStrobes .errAngle))) ∨
    (angleLegal s.cfg b = true ∧ ∃ r, s.pac.gotoAngle s.cfg (angleWord b) b.p3 = some r ∧
      motorangleStages b s = .next ((callAndReturn (.angleSet (angleWord b) b.p3) s).setPac r)) := by
  unfold motorangleStages
  cases angleLegal s.cfg b
  · simp [raiseRC_eq]
  · right
    rcases h with h | h <;> simp [Pac.gotoAngle, h]

/-- Everything CARHORN's check and call can do (R135). -/
theorem carhornStages_cases (b : FrameBody) (s : State) :
    (durationLegal b = false ∧ carhornStages b s = .next (s.setStrobes (failedStrobes .errHornDuration))) ∨
    (durationLegal b = true ∧ carhornStages b s = .next (callAndReturn (.hornTrigger (hornMs b)) s)) := by
  unfold carhornStages
  cases durationLegal b <;> simp [raiseRC_eq]

/-- Everything CARLIGHT's check and call can do (R137). -/
theorem carlightStages_cases (b : FrameBody) (s : State) :
    (lightCodeLegal b = false ∧ carlightStages b s = .next (s.setStrobes (failedStrobes .errLightCode))) ∨
    (lightCodeLegal b = true ∧
      carlightStages b s = .next (callAndReturn (.lightSet (lightChannel b) (lightOn b)) s)) := by
  unfold carlightStages
  cases lightCodeLegal b <;> simp [raiseRC_eq]

/-- What the stages of a command after the checksum are. -/
def commandStages (c : Command) (b : FrameBody) (s : State) : Host.Outcome State Fault Refusal :=
  match c with
  | .motor => motorStages b s
  | .motorangle => motorangleStages b s
  | .carhorn => carhornStages b s
  | .carlight => carlightStages b s
  | .carconfirmation => .next (returnOk s)

/-- A wire command is its checksum stage and then its own stages, in an idle block. -/
theorem runCommand_eq (c : Command) (b : FrameBody) (s : State) :
    runCommand c b s = whenIdle s fun s => checksumStage c.id b s (commandStages c b) := by
  cases c <;> rfl

/-- The arm of a wire command is the command's rule. -/
theorem exec_instr (c : Command) (b : FrameBody) (s : State) : exec (c.instr b) s = runCommand c b s := by
  cases c <;> rfl

/-- Everything a command can do after the checksum stage in an idle state: fail with a field code, or succeed, with at
most one call, the registers changed only by MOTORANGLE. -/
theorem commandStages_cases (c : Command) (b : FrameBody) {s : State} (h : s.pac.Idle) :
    (legal s.cfg c b = false ∧ ∃ code, code ≠ .ok ∧
      commandStages c b s = .next (s.setStrobes (failedStrobes code))) ∨
    (legal s.cfg c b = true ∧ c = .carconfirmation ∧ commandStages c b s = .next (returnOk s)) ∨
    (legal s.cfg c b = true ∧ c ≠ .carconfirmation ∧ ∃ call r, (c ≠ .motorangle → r = s.pac) ∧
      commandStages c b s = .next ((callAndReturn call s).setPac r)) := by
  cases c
  · rcases motorStages_cases b s with ⟨h1, h2⟩ | ⟨h0, h1, h2⟩ | ⟨h0, h1, h2, h3⟩ | ⟨h0, h1, h2, h3⟩
    · exact .inl ⟨by simp [legal, h1], _, by simp, h2⟩
    · exact .inl ⟨by simp [legal, h1], _, by simp, h2⟩
    · exact .inl ⟨by simp [legal, h2], _, by simp, h3⟩
    · exact .inr (.inr ⟨by simp [legal, *], by simp, _, s.pac, fun _ => rfl, h3⟩)
  · rcases motorangleStages_cases b h with ⟨h1, h2⟩ | ⟨h1, r, -, h2⟩
    · exact .inl ⟨h1, _, by simp, h2⟩
    · exact .inr (.inr ⟨h1, by simp, _, r, by simp, h2⟩)
  · rcases carhornStages_cases b s with ⟨h1, h2⟩ | ⟨h1, h2⟩
    · exact .inl ⟨h1, _, by simp, h2⟩
    · exact .inr (.inr ⟨h1, by simp, _, s.pac, fun _ => rfl, h2⟩)
  · rcases carlightStages_cases b s with ⟨h1, h2⟩ | ⟨h1, h2⟩
    · exact .inl ⟨h1, _, by simp, h2⟩
    · exact .inr (.inr ⟨h1, by simp, _, s.pac, fun _ => rfl, h2⟩)
  · exact .inr (.inl ⟨rfl, rfl, rfl⟩)

/-- DECODE in an idle block, stage by stage (R114). -/
theorem execDecode_of_idle {s : State} (h : s.pac.Idle) :
    execDecode s = if s.port.framePresent = false then raiseRC .errNull s else decodeStages s.fb.frame s := by
  unfold execDecode
  rw [whenIdle_of_idle h]
  rfl

theorem execDecode_of_busy {s : State} (h : ¬ s.pac.Idle) : execDecode s = .next (s.setStrobes Strobes.low) :=
  whenIdle_of_busy h

/-- Stages 2 to 5 of DECODE in an idle block, once and for all (R114). -/
theorem decodeStages_cases (v : FrameView) {s : State} (h : s.pac.Idle) :
    ((v.start ≠ startMarker ∨ v.stop ≠ endMarker) ∧
      decodeStages v s = .next (s.setStrobes (failedStrobes .errSentinel))) ∨
    (v.start = startMarker ∧ v.stop = endMarker ∧ ck16 s.cfg (coveredBytes v.id v.body) ≠ v.body.cks ∧
      decodeStages v s = .next (s.setStrobes (failedStrobes .errChecksum))) ∨
    (v.start = startMarker ∧ v.stop = endMarker ∧ ck16 s.cfg (coveredBytes v.id v.body) = v.body.cks ∧
      (v.id.toNat = 0 ∨ 6 ≤ v.id.toNat) ∧ decodeStages v s = .next (s.setStrobes (failedStrobes .errUnknownCmd))) ∨
    (v.start = startMarker ∧ v.stop = endMarker ∧ ck16 s.cfg (coveredBytes v.id v.body) = v.body.cks ∧
      ∃ c : Command, v.id = c.id ∧ decodeStages v s = commandStages c v.body s) := by
  unfold decodeStages
  cases hs : select v with
  | badSentinel => exact .inl ⟨select_eq_badSentinel.1 hs, rfl⟩
  | unknownId =>
    obtain ⟨h1, h2, h3⟩ := select_eq_unknownId.1 hs
    by_cases hc : ck16 s.cfg (coveredBytes v.id v.body) = v.body.cks
    · exact .inr (.inr (.inl ⟨h1, h2, hc, h3, checksumStage_of_eq hc⟩))
    · exact .inr (.inl ⟨h1, h2, hc, checksumStage_of_ne hc⟩)
  | command c =>
    obtain ⟨h1, h2, h3⟩ := select_eq_command.1 hs
    by_cases hc : ck16 s.cfg (coveredBytes v.id v.body) = v.body.cks
    · refine .inr (.inr (.inr ⟨h1, h2, hc, c, h3, ?_⟩))
      show runCommand c v.body s = _
      rw [runCommand_eq, whenIdle_of_idle h]
      exact checksumStage_of_eq (h3 ▸ hc)
    · refine .inr (.inl ⟨h1, h2, hc, ?_⟩)
      show runCommand c v.body s = _
      rw [runCommand_eq, whenIdle_of_idle h]
      exact checksumStage_of_ne (h3 ▸ hc)

/-! ### Every meaning leaves the world alone -/

/-- What an update by `setStrobes`, `record` and `setPac` leaves: everything outside the block. -/
def SameWorld (s t : State) : Prop :=
  t.fb = s.fb ∧ t.port = s.port ∧ t.inbox = s.inbox ∧ t.stepNo = s.stepNo ∧ t.cfg = s.cfg

theorem SameWorld.refl (s : State) : SameWorld s s := ⟨rfl, rfl, rfl, rfl, rfl⟩

theorem commandStages_sameWorld {c : Command} {b : FrameBody} {s t : State} (hi : s.pac.Idle)
    (h : commandStages c b s = .next t) : SameWorld s t := by
  rcases commandStages_cases c b hi with ⟨-, code, -, h'⟩ | ⟨-, -, h'⟩ | ⟨-, -, call, r, -, h'⟩
  all_goals
    rw [h] at h'
    cases h'
    exact ⟨rfl, rfl, rfl, rfl, rfl⟩

/-! ### A command and a DECODE, whole -/

theorem Pac.not_idle {r : Pac} : ¬ r.Idle ↔ r.ctlState = .calib ∨ r.ctlState = .seek := by
  unfold Pac.Idle
  cases r.ctlState <;> simp

/-- The meaning of an intact wire command in an idle block. -/
theorem exec_instr_of_intact (c : Command) {b : FrameBody} {s : State} (hi : s.pac.Idle)
    (h : ck16 s.cfg (coveredBytes c.id b) = b.cks) : exec (c.instr b) s = commandStages c b s := by
  rw [exec_instr, runCommand_eq, whenIdle_of_idle hi, checksumStage_of_eq h]

theorem commandStages_next (c : Command) (b : FrameBody) {s : State} (h : s.pac.Idle) :
    ∃ t, commandStages c b s = .next t := by
  rcases commandStages_cases c b h with ⟨-, _, -, h'⟩ | ⟨-, -, h'⟩ | ⟨-, -, _, _, -, h'⟩ <;> exact ⟨_, h'⟩

/-- Everything a DECODE can do in an idle block: fail with a code, or run the stages of the legal command it selects. -/
theorem execDecode_cases {s : State} (h : s.pac.Idle) :
    (∃ c, c ≠ .ok ∧ execDecode s = .next (s.setStrobes (failedStrobes c))) ∨
    (s.port.framePresent = true ∧ s.fb.frame.start = startMarker ∧ s.fb.frame.stop = endMarker ∧
      ck16 s.cfg (coveredBytes s.fb.frame.id s.fb.frame.body) = s.fb.frame.body.cks ∧
      ∃ c : Command, s.fb.frame.id = c.id ∧ execDecode s = commandStages c s.fb.frame.body s ∧
        legal s.cfg c s.fb.frame.body = true) := by
  rw [execDecode_of_idle h]
  cases hp : s.port.framePresent
  · exact .inl ⟨.errNull, by simp, rfl⟩
  · rcases decodeStages_cases s.fb.frame h with ⟨_, h'⟩ | ⟨_, _, _, h'⟩ | ⟨_, _, _, _, h'⟩ | ⟨h1, h2, h3, c, h4, h'⟩
    · exact .inl ⟨.errSentinel, by simp, by simpa using h'⟩
    · exact .inl ⟨.errChecksum, by simp, by simpa using h'⟩
    · exact .inl ⟨.errUnknownCmd, by simp, by simpa using h'⟩
    · rcases commandStages_cases c s.fb.frame.body h with ⟨_, code, hc, h''⟩ | ⟨hl, _, h''⟩ | ⟨hl, _, call, r, _, h''⟩
      · exact .inl ⟨code, hc, by simpa [h'] using h''⟩
      · exact .inr ⟨rfl, h1, h2, h3, c, h4, by simpa using h', hl⟩
      · exact .inr ⟨rfl, h1, h2, h3, c, h4, by simpa using h', hl⟩

theorem execDecode_next (s : State) : ∃ t, execDecode s = .next t := by
  by_cases h : s.pac.Idle
  · rcases execDecode_cases h with ⟨c, _, h'⟩ | ⟨_, _, _, _, c, _, h', _⟩
    · exact ⟨_, h'⟩
    · rw [h']
      exact commandStages_next c _ h
  · exact ⟨_, execDecode_of_busy h⟩

/-- A DECODE leaves everything outside the block alone, and the combinational outputs. -/
theorem execDecode_sameWorld {s t : State} (h : execDecode s = .next t) :
    SameWorld s t ∧ t.encFrame = s.encFrame ∧ t.encCk = s.encCk ∧ t.ckResult = s.ckResult := by
  by_cases hi : s.pac.Idle
  · rcases execDecode_cases hi with ⟨c, _, h'⟩ | ⟨_, _, _, _, c, _, h', _⟩
    · rw [h] at h'
      cases h'
      exact ⟨⟨rfl, rfl, rfl, rfl, rfl⟩, rfl, rfl, rfl⟩
    · rw [h] at h'
      rcases commandStages_cases c s.fb.frame.body hi with ⟨_, _, _, h''⟩ | ⟨_, _, h''⟩ | ⟨_, _, _, _, _, h''⟩
      all_goals
        rw [h''] at h'
        cases h'
        exact ⟨⟨rfl, rfl, rfl, rfl, rfl⟩, rfl, rfl, rfl⟩
  · rw [execDecode_of_busy hi] at h
    cases h
    exact ⟨⟨rfl, rfl, rfl, rfl, rfl⟩, rfl, rfl, rfl⟩

/-- What a step leaves of the world: what the latch made of it. -/
theorem step_sameWorld {s t : State} (h : step s = .next t) : SameWorld s.latch t := by
  rcases step_cases s with ⟨-, h'⟩ | ⟨-, hi, -, h'⟩ | ⟨-, -, -, -, h'⟩ | ⟨-, -, -, h'⟩ | ⟨-, -, -, h'⟩ <;> rw [h'] at h
  · cases h
    exact SameWorld.refl _
  · unfold execCalibrate at h
    rw [whenIdle_of_idle (s := s.latch) hi] at h
    cases h
    exact ⟨rfl, rfl, rfl, rfl, rfl⟩
  · exact (execDecode_sameWorld h).1
  · cases h
    exact ⟨rfl, rfl, rfl, rfl, rfl⟩
  · cases h
    exact SameWorld.refl _

/-! ### Runs -/

/-- One step of a run. -/
theorem run_succ (M : Host.Core) (k : Nat) (s s' : M.State) (h : M.step s = .next s') :
    M.run (k + 1) s = M.run k s' := by
  conv_lhs => unfold Host.Core.run
  rw [h]

end Sys2Proof.Machine
end

