-- ==== Sys2Proof/Laws/Controller.lean ====
section
/-! SUPPORT. The angle controller: one lemma per rule that says everything it can do, and what a TICK leaves alone. -/

namespace Sys2Proof.Machine

open Sys2Proof.Config

/-! ### The meanings of the controller -/

theorem execCalibrate_of_idle {s : State} (h : s.pac.Idle) :
    execCalibrate s = .next ((s.setPac (s.pac.calibrate s.cfg)).setStrobes { Strobes.low with calAck := true }) :=
  whenIdle_of_idle h

theorem execCalibrate_of_busy {s : State} (h : ¬ s.pac.Idle) :
    execCalibrate s = .next (s.setStrobes Strobes.low) :=
  whenIdle_of_busy h

theorem execTick_eq (s : State) :
    execTick s = .next ((s.setPac (s.pac.tick s.cfg s.port.encPos)).setStrobes Strobes.low) := rfl

/-- Everything GOTOANGLE can do (R160, R161, R163). -/
theorem Pac.gotoAngle_cases (p : Params) (angle : Half) (dir : Byte) (r : Pac) :
    (r.ctlState = .ready ∧ r.gotoAngle p angle dir = some { r with
      target := narrowS (p.encW + 1) (targetOf p r angle dir), ctlState := .seek, sub := .first, pace := 0, tmo := 0,
      ctlStatus := .noneYet }) ∨
    (r.ctlState = .uncal ∧ r.gotoAngle p angle dir = some { r with ctlStatus := .notCalibrated }) ∨
    (¬ r.Idle ∧ r.gotoAngle p angle dir = none) := by
  unfold Pac.gotoAngle
  cases h : r.ctlState <;> simp [Pac.Idle, h]

/-! ### TICK by phase (R165) -/

theorem Pac.tick_of_idle {p : Params} {e : Int} {r : Pac} (h : r.Idle) : r.tick p e = r := by
  unfold Pac.tick
  rcases h with h | h <;> simp [h]

theorem Pac.tick_sweepMin {p : Params} {e : Int} {r : Pac} (h : r.ctlState = .calib) (hs : r.sub = .first) :
    r.tick p e = r.sweep p e := by simp [Pac.tick, h, hs]

theorem Pac.tick_settle {p : Params} {e : Int} {r : Pac} (h : r.ctlState = .calib) (hs : r.sub = .second) :
    r.tick p e = r.settle p := by simp [Pac.tick, h, hs]

theorem Pac.tick_sweepMax {p : Params} {e : Int} {r : Pac} (h : r.ctlState = .calib) (hs : r.sub = .third) :
    r.tick p e = r.sweep p e := by simp [Pac.tick, h, hs]

theorem Pac.tick_sample {p : Params} {e : Int} {r : Pac} (h : r.ctlState = .seek) (hs : r.sub = .first) :
    r.tick p e = r.sample p e := by simp [Pac.tick, h, hs]

theorem Pac.tick_drive {p : Params} {e : Int} {r : Pac} (h : r.ctlState = .seek) (hs : r.sub = .second) :
    r.tick p e = r.drive p := by simp [Pac.tick, h, hs]

theorem Pac.tick_stop {p : Params} {e : Int} {r : Pac} (h : r.ctlState = .seek) (hs : r.sub = .third) :
    r.tick p e = r.stop p := by simp [Pac.tick, h, hs]

/-- The phases a TICK dispatches on (R165), once and for all. -/
theorem Pac.tick_cases (p : Params) (e : Int) (r : Pac) :
    (r.Idle ∧ r.tick p e = r) ∨
    (r.ctlState = .calib ∧ (r.sub = .first ∨ r.sub = .third) ∧ r.tick p e = r.sweep p e) ∨
    (r.ctlState = .calib ∧ r.sub = .second ∧ r.tick p e = r.settle p) ∨
    (r.ctlState = .seek ∧ r.sub = .first ∧ r.tick p e = r.sample p e) ∨
    (r.ctlState = .seek ∧ r.sub = .second ∧ r.tick p e = r.drive p) ∨
    (r.ctlState = .seek ∧ r.sub = .third ∧ r.tick p e = r.stop p) := by
  unfold Pac.tick
  cases h : r.ctlState <;> cases hs : r.sub <;> simp [Pac.Idle, h]

/-! ### The rules, once and for all -/

/-- Everything a sweep step can do (R166, R167, R169). -/
theorem Pac.sweep_cases (p : Params) (e : Int) (r : Pac) :
    (limitPassed p.calTimeoutTicks r.tmo = true ∧ r.sweep p e = r.calAbort) ∨
    (limitPassed p.calTimeoutTicks r.tmo = false ∧ p.calStableN ≤ matchCount p e r ∧
      r.sweep p e = r.limitFound p e) ∨
    (limitPassed p.calTimeoutTicks r.tmo = false ∧ matchCount p e r < p.calStableN ∧
      r.sweep p e = { r with
        dbLast := narrowS p.encW e, dbValid := true, dbCnt := narrowU p.cntW (matchCount p e r),
        tmo := tmoAfter p p.calTimeoutTicks r.tmo }) := by
  unfold Pac.sweep
  cases limitPassed p.calTimeoutTicks r.tmo
  · by_cases h : matchCount p e r ≥ p.calStableN
    · exact .inr (.inl ⟨rfl, h, by simp [h]⟩)
    · exact .inr (.inr ⟨rfl, by omega, by simp [h]⟩)
  · exact .inl ⟨rfl, rfl⟩

/-- LIMIT_FOUND at the end of the first sweep (R167). -/
theorem Pac.limitFound_first {p : Params} {e : Int} {r : Pac} (h : r.sub = .first) :
    r.limitFound p e = { r with
      actDuty := 0, dbValid := false, dbCnt := 0, tmo := 0, pace := 0, encMin := narrowS p.encW e,
      sub := .second } := by
  simp [Pac.limitFound, h]

/-- LIMIT_FOUND at the end of the second sweep (R167). -/
theorem Pac.limitFound_third {p : Params} {e : Int} {r : Pac} (h : r.sub = .third) :
    r.limitFound p e = { r with
      actDuty := 0, dbValid := false, dbCnt := 0, tmo := 0, pace := 0, encMax := narrowS p.encW e,
      encCenter := narrowS p.encW (tdiv (r.encMin + e) 2), ctlState := .ready, sub := .first,
      ctlStatus := .calOk } := by
  simp [Pac.limitFound, h]

/-- Everything a settle step can do (R176). -/
theorem Pac.settle_cases (p : Params) (r : Pac) :
    (p.calSettleTicks ≤ r.pace + 1 ∧
      r.settle p = { r with sub := .third, actDir := true, actDuty := dutyBits p.calDuty, pace := 0 }) ∨
    (r.pace + 1 < p.calSettleTicks ∧ r.settle p = { r with pace := narrowU p.cntW (r.pace + 1) }) := by
  unfold Pac.settle
  by_cases h : r.pace + 1 ≥ p.calSettleTicks
  · exact .inl ⟨h, by simp [h]⟩
  · exact .inr ⟨by omega, by simp [h]⟩

/-- Everything a SAMPLE step can do (R170 to R173, R175). -/
theorem Pac.sample_cases (p : Params) (e : Int) (r : Pac) :
    (limitPassed p.seekTimeoutTicks r.tmo = true ∧ r.sample p e = r.seekEnd .seekTimeout) ∨
    (limitPassed p.seekTimeoutTicks r.tmo = false ∧ (r.target < r.encMin ∨ r.encMax < r.target) ∧
      r.sample p e = r.seekEnd .rangeFault) ∨
    (limitPassed p.seekTimeoutTicks r.tmo = false ∧ (r.encMin ≤ r.target ∧ r.target ≤ r.encMax) ∧
      (e - r.target).natAbs ≤ p.seekTol ∧ r.sample p e = r.seekEnd .seekOk) ∨
    (limitPassed p.seekTimeoutTicks r.tmo = false ∧ (r.encMin ≤ r.target ∧ r.target ≤ r.encMax) ∧
      p.seekTol < (e - r.target).natAbs ∧
      r.sample p e = { r with
        actDir := decide (e - r.target < 0), actDuty := dutyBits (seekDutyOf p (e - r.target).natAbs),
        sub := .second, pace := 0, tmo := tmoAfter p p.seekTimeoutTicks r.tmo }) := by
  unfold Pac.sample
  cases limitPassed p.seekTimeoutTicks r.tmo
  · by_cases h : r.target < r.encMin ∨ r.target > r.encMax
    · exact .inr (.inl ⟨rfl, h, by simp [h]⟩)
    · by_cases ht : (e - r.target).natAbs ≤ p.seekTol
      · exact .inr (.inr (.inl ⟨rfl, by omega, ht, by simp [h, ht]⟩))
      · exact .inr (.inr (.inr ⟨rfl, by omega, by omega, by simp [h, ht]⟩))
  · exact .inl ⟨rfl, rfl⟩

/-- Everything a DRIVE step can do (R174, R175). -/
theorem Pac.drive_cases (p : Params) (r : Pac) :
    (limitPassed p.seekTimeoutTicks r.tmo = true ∧ r.drive p = r.seekEnd .seekTimeout) ∨
    (limitPassed p.seekTimeoutTicks r.tmo = false ∧ p.driveTicks ≤ r.pace + 1 ∧
      r.drive p = { r with
        actDuty := 0, sub := .third, pace := 0, tmo := tmoAfter p p.seekTimeoutTicks r.tmo }) ∨
    (limitPassed p.seekTimeoutTicks r.tmo = false ∧ r.pace + 1 < p.driveTicks ∧
      r.drive p = { r with
        pace := narrowU p.cntW (r.pace + 1), tmo := tmoAfter p p.seekTimeoutTicks r.tmo }) := by
  unfold Pac.drive
  cases limitPassed p.seekTimeoutTicks r.tmo
  · by_cases h : r.pace + 1 ≥ p.driveTicks
    · exact .inr (.inl ⟨rfl, h, by simp [h]⟩)
    · exact .inr (.inr ⟨rfl, by omega, by simp [h]⟩)
  · exact .inl ⟨rfl, rfl⟩

/-- Everything a STOP step can do (R174, R175). -/
theorem Pac.stop_cases (p : Params) (r : Pac) :
    (limitPassed p.seekTimeoutTicks r.tmo = true ∧ r.stop p = r.seekEnd .seekTimeout) ∨
    (limitPassed p.seekTimeoutTicks r.tmo = false ∧ p.stopTicks ≤ r.pace + 1 ∧
      r.stop p = { r with sub := .first, pace := 0, tmo := tmoAfter p p.seekTimeoutTicks r.tmo }) ∨
    (limitPassed p.seekTimeoutTicks r.tmo = false ∧ r.pace + 1 < p.stopTicks ∧
      r.stop p = { r with
        pace := narrowU p.cntW (r.pace + 1), tmo := tmoAfter p p.seekTimeoutTicks r.tmo }) := by
  unfold Pac.stop
  cases limitPassed p.seekTimeoutTicks r.tmo
  · by_cases h : r.pace + 1 ≥ p.stopTicks
    · exact .inr (.inl ⟨rfl, h, by simp [h]⟩)
    · exact .inr (.inr ⟨rfl, by omega, by simp [h]⟩)
  · exact .inl ⟨rfl, rfl⟩

/-- The match counter is at most one more than before (R166). -/
theorem matchCount_le (p : Params) (e : Int) (r : Pac) : matchCount p e r ≤ r.dbCnt + 1 := by
  unfold matchCount
  split <;> omega

/-- A run of ticks, sample by sample. -/
@[simp] theorem Pac.ticks_nil (p : Params) (r : Pac) : r.ticks p [] = r := rfl

theorem Pac.ticks_cons (p : Params) (r : Pac) (e : Int) (es : List Int) :
    r.ticks p (e :: es) = (r.tick p e).ticks p es := rfl

theorem Pac.ticks_append (p : Params) (r : Pac) (es es' : List Int) :
    r.ticks p (es ++ es') = (r.ticks p es).ticks p es' := by
  simp [Pac.ticks, List.foldl_append]

theorem Pac.ticks_of_idle {p : Params} {r : Pac} (h : r.Idle) (es : List Int) : r.ticks p es = r := by
  induction es with
  | nil => rfl
  | cons e es ih => rw [Pac.ticks_cons, Pac.tick_of_idle h, ih]

theorem Pac.ticks_concat (p : Params) (r : Pac) (es : List Int) (e : Int) :
    r.ticks p (es ++ [e]) = (r.ticks p es).tick p e := by
  rw [Pac.ticks_append]
  rfl

/-! ### What a DECODE does to the registers -/

/-- A DECODE leaves the registers alone and makes no `angle_set` call, or it makes one and that is the angle request. -/
theorem execDecode_pac {s t : State} (hi : s.pac.Idle) (h : execDecode s = .next t) :
    (t.pac = s.pac ∧ ∀ a d, t.strobes.call ≠ some (.angleSet a d)) ∨
    (∃ a d, t.strobes.call = some (.angleSet a d) ∧ s.pac.gotoAngle s.cfg a d = some t.pac) := by
  rcases execDecode_cases hi with ⟨c, _, h'⟩ | ⟨_, _, _, _, c, _, h', _⟩
  · rw [h] at h'
    cases h'
    exact .inl ⟨rfl, by simp [failedStrobes]⟩
  · rw [h'] at h
    cases c
    · rcases motorStages_cases s.fb.frame.body s with ⟨_, h2⟩ | ⟨_, _, h2⟩ | ⟨_, _, _, h2⟩ | ⟨_, _, _, h2⟩
      all_goals
        have h := h.symm.trans h2
        cases h
        exact .inl ⟨rfl, by simp [failedStrobes, callAndReturn]⟩
    · rcases motorangleStages_cases s.fb.frame.body hi with ⟨_, h2⟩ | ⟨_, r, hr, h2⟩
      · have h := h.symm.trans h2
        cases h
        exact .inl ⟨rfl, by simp [failedStrobes]⟩
      · have h := h.symm.trans h2
        cases h
        exact .inr ⟨_, _, rfl, hr⟩
    · rcases carhornStages_cases s.fb.frame.body s with ⟨_, h2⟩ | ⟨_, h2⟩
      all_goals
        have h := h.symm.trans h2
        cases h
        exact .inl ⟨rfl, by simp [failedStrobes, callAndReturn]⟩
    · rcases carlightStages_cases s.fb.frame.body s with ⟨_, h2⟩ | ⟨_, h2⟩
      all_goals
        have h := h.symm.trans h2
        cases h
        exact .inl ⟨rfl, by simp [failedStrobes, callAndReturn]⟩
    · cases h
      exact .inl ⟨rfl, by simp [returnOk]⟩

/-- What a step does to the registers, by the operation it performs (R40). -/
theorem step_pac {s t : State} (h : step s = .next t) :
    (s.nextDrive.rst = true ∧ t.pac = Pac.reset) ∨
    (s.nextDrive.rst = false ∧ s.pac.Idle ∧ s.nextDrive.calReq = true ∧ t.pac = s.pac.calibrate s.cfg) ∨
    (s.nextDrive.rst = false ∧ s.pac.Idle ∧ t.pac = s.pac) ∨
    (s.nextDrive.rst = false ∧ s.pac.Idle ∧ s.nextDrive.calReq = false ∧ s.nextDrive.decReq = true ∧
      ∃ a d, t.strobes.call = some (.angleSet a d) ∧ s.pac.gotoAngle s.cfg a d = some t.pac) ∨
    (s.nextDrive.rst = false ∧ ¬ s.pac.Idle ∧ s.nextDrive.tick = true ∧ t.pac = s.pac.tick s.cfg t.port.encPos) ∨
    (s.nextDrive.rst = false ∧ ¬ s.pac.Idle ∧ s.nextDrive.tick = false ∧ t.pac = s.pac) := by
  rcases step_cases s with ⟨hr, h'⟩ | ⟨hr, hi, hc, h'⟩ | ⟨hr, hi, hc, hd, h'⟩ | ⟨hr, hi, ht, h'⟩ | ⟨hr, -, ht, h'⟩ <;>
    rw [h] at h'
  · cases h'
    exact .inl ⟨hr, rfl⟩
  · rw [execCalibrate_of_idle (s := s.latch) hi] at h'
    cases h'
    exact .inr (.inl ⟨hr, hi, hc, rfl⟩)
  · rcases execDecode_pac (s := s.latch) hi h'.symm with ⟨h1, _⟩ | ⟨a, d, h1, h2⟩
    · exact .inr (.inr (.inl ⟨hr, hi, h1⟩))
    · exact .inr (.inr (.inr (.inl ⟨hr, hi, hc, hd, a, d, h1, h2⟩)))
  · cases h'
    exact .inr (.inr (.inr (.inr (.inl ⟨hr, hi, ht, rfl⟩))))
  · cases h'
    by_cases hb : s.pac.Idle
    · exact .inr (.inr (.inl ⟨hr, hb, rfl⟩))
    · exact .inr (.inr (.inr (.inr (.inr ⟨hr, hb, ht hb, rfl⟩))))

end Sys2Proof.Machine
end

