-- ==== Sys2Proof/Laws/PerInstr.lean ====
section
/-! SUPPORT. What is said of every instruction as syntax, one lemma per constructor: the form of its encoding. -/

namespace Sys2Proof.Laws.EncodingForm

open Sys2Proof Sys2Proof.Machine

/-- The encoding of an operation, where it has one, is twelve bytes between the two markers (`spec/30_encoding.md` R70,
R71; `spec/20_memory.md` R53), or a request vector that does not raise `rst` (R85). -/
def Statement (i : Instr) : Prop :=
  match encode i with
  | some (.frame bytes) => 
    bytes.length = 12 ∧ bytes.getD 0 0 = 0x55 ∧ bytes.getD 1 0 = 0xAA ∧ bytes.getD 10 0 = 0x0A ∧
      bytes.getD 11 0 = 0x0D
  | some (.vector q) => q.getLsbD 4 = false
  | none => True

theorem ofCommand (c : Command) (b : FrameBody) :
    let bytes := frameToBytes (commandFrame c b)
    bytes.length = 12 ∧ bytes.getD 0 0 = 0x55 ∧ bytes.getD 1 0 = 0xAA ∧ bytes.getD 10 0 = 0x0A ∧
      bytes.getD 11 0 = 0x0D := by
  rw [frameToBytes_commandFrame]
  exact ⟨rfl, rfl, rfl, rfl, rfl⟩

theorem motor (b : FrameBody) : Statement (.motor b) := ofCommand .motor b
theorem motorangle (b : FrameBody) : Statement (.motorangle b) := ofCommand .motorangle b
theorem carhorn (b : FrameBody) : Statement (.carhorn b) := ofCommand .carhorn b
theorem carlight (b : FrameBody) : Statement (.carlight b) := ofCommand .carlight b
theorem carconfirmation (b : FrameBody) : Statement (.carconfirmation b) := ofCommand .carconfirmation b
theorem cksum (bytes : List Byte) : Statement (.cksum bytes) := trivial
theorem encode : Statement .encode := rfl
theorem decode : Statement .decode := rfl
theorem calibrate : Statement .calibrate := rfl
theorem gotoangle (angle : Half) (dir : Byte) : Statement (.gotoangle angle dir) := trivial
theorem tick : Statement .tick := rfl

end Sys2Proof.Laws.EncodingForm
end

