-- ==== Sys2Proof/Machine/TextForms.lean ====
section
/-! DEFINITION. The text forms of frames and port events (`spec/30_encoding.md` R86): what each stands for, as the inputs of
one step. No form is an alias of another and none expands to more than one frame or event (R87). -/

namespace Sys2Proof.Machine

open Sys2Proof.Config

/-- A text form with its operands (R86). -/
inductive TextForm where
  /-- `MOTOR id, speed, dir` -/
  | motor (id speed dir : Byte)
  /-- `MOTORANGLE tid, angle, dir` -/
  | motorangle (tid : Byte) (angle : Half) (dir : Byte)
  /-- `CARHORN tid, seconds` -/
  | carhorn (tid seconds : Byte)
  /-- `CARLIGHT tid, code` -/
  | carlight (tid code : Byte)
  /-- `CARCONFIRMATION cmd, status, value` -/
  | carconfirmation (cmd status : Byte) (value : Half)
  /-- `FRAME b0 b1 ... b11` -/
  | frame (bytes : Vector Byte 12)
  /-- `NOFRAME` -/
  | noFrame
  /-- `CALIBRATE`, one step of the request -/
  | calibrate
  /-- `TICK e` -/
  | tick (e : Int)
  deriving DecidableEq, Repr

/-- The frame `ENCODE([q0, q1, q2, q3], id)` in wire order (`spec/41_packet_codec.md` R111). -/
def encodedBytes (p : Params) (q0 q1 q2 q3 id : Byte) : List Byte :=
  frameToBytes (encodeFrame p (q3 ++ q2 ++ q1 ++ q0) id)

/-- The frame a text form stands for, in wire order, if it stands for one (R86). -/
def TextForm.bytes? (p : Params) : TextForm → Option (List Byte)
  | .motor id speed dir => some (encodedBytes p id speed dir 0 1)
  | .motorangle tid angle dir => some (encodedBytes p tid (loByte angle) (hiByte angle) dir 2)
  | .carhorn tid seconds => some (encodedBytes p tid seconds 0 0 3)
  | .carlight tid code => some (encodedBytes p tid code 0 0 4)
  | .carconfirmation cmd status value => some (encodedBytes p cmd status (loByte value) (hiByte value) 5)
  | .frame bytes => some bytes.toList
  | .noFrame => none
  | .calibrate => none
  | .tick _ => none

/-- The inputs of the step a text form stands for (R86): its frame presented with a DECODE request, or its port event. -/
def TextForm.drive (p : Params) (f : TextForm) : Drive :=
  match f with
  | .noFrame => { Drive.quiet with decReq := true }
  | .calibrate => { Drive.quiet with calReq := true }
  | .tick e => { Drive.quiet with tick := true, encPos := e }
  | .motor _ _ _ => frameDrive ((f.bytes? p).getD [])
  | .motorangle _ _ _ => frameDrive ((f.bytes? p).getD [])
  | .carhorn _ _ => frameDrive ((f.bytes? p).getD [])
  | .carlight _ _ => frameDrive ((f.bytes? p).getD [])
  | .carconfirmation _ _ _ => frameDrive ((f.bytes? p).getD [])
  | .frame bytes => frameDrive bytes.toList

end Sys2Proof.Machine
end

