-- ==== Sys2Proof/Tests/Slice0.lean ====
section
/-! SUPPORT. Tests. Every expected value is from the spec: the encodings of `spec/30_encoding.md` R71 to R85 written out byte
by byte, the vectors of `spec/95_test_vectors.md` (named in each docstring), or hand calculation from the rule named. Then
one witness for every obligation that has hypotheses. -/

namespace Sys2Proof.Tests

open Sys2Proof.Config Sys2Proof.Machine

/-! ### States to test on -/

/-- The next state of an outcome. -/
def nextOf : Host.Outcome State Fault Refusal → Option State
  | .next s => some s
  | .fault _ => none
  | .refused _ => none

/-- The parameters of the vectors B10, B11 and of the programs. -/
def small : Params :=
  { Params.default with
    calDuty := 40, calTol := 1, calStableN := 2, calSettleTicks := 2, seekTol := 2, seekDuty := 30, driveTicks := 1,
    stopTicks := 1 }

/-- The reset state with these parameters and registers. -/
def mk (p : Params) (r : Pac) : State := { State.reset with cfg := p, pac := r }

/-- The calibrated registers of the vectors B5, B9, B11. -/
def calibrated : Pac := { Pac.reset with encMin := -500, encMax := 700, encCenter := 100, ctlState := .ready }

/-- The first sweep, right after CALIBRATE (B10.1). -/
def sweeping : Pac := { Pac.reset with ctlState := .calib, actDuty := 40 }

/-- The second sweep, with `ENC_MIN` = -5 (B10.3). -/
def sweepingUp : Pac :=
  { Pac.reset with ctlState := .calib, sub := .third, encMin := -5, actDuty := 40, actDir := true }

/-- A seek to 233 (B11). -/
def seeking : Pac := { calibrated with ctlState := .seek, target := 233 }

/-- The last sampled `enc_pos` of a state. -/
def at_ (e : Int) (s : State) : State := { s with port := { s.port with encPos := e } }

/-- A state in whose buffer these bytes stand, presented. -/
def holding (l : List Byte) (s : State) : State :=
  { s with fb := Memory.setAll [] (storesOf l), port := { s.port with framePresent := true } }

/-- The frame of vector A7. -/
def motorFrame : List Byte := [0x55, 0xAA, 0x01, 0x01, 0x3C, 0x01, 0x00, 0x01, 0x40, 0x00, 0x0A, 0x0D]

/-- The body of that frame. -/
def motorBody : FrameBody := ⟨1, 60, 1, 0, 1, 0x0040⟩

/-- The result code and the call of a DECODE on these bytes in a block with these registers. -/
def resultOf (r : Pac) (l : List Byte) : Option (ResultCode × Option CallRecord) :=
  (nextOf (exec .decode (holding l (mk small r)))).map fun t => (t.strobes.resultCode, t.strobes.call)

/-- The registers after TICK on this sample. -/
def ticked (p : Params) (r : Pac) (e : Int) : Option Pac := (nextOf (exec .tick (at_ e (mk p r)))).map (·.pac)

/-! ### Decoding: words written out from the encoding -/

/-- R71, R72: MOTOR, byte by byte (A7). -/
theorem test_decode_motor : decodeBytes motorFrame = .ok (.motor motorBody) := by rfl

/-- R71, R77: MOTORANGLE, low byte of the angle first (A8). -/
theorem test_decode_motorangle :
    decodeBytes [0x55, 0xAA, 0x02, 0x01, 0x56, 0xFF, 0x01, 0x01, 0x5A, 0x01, 0x0A, 0x0D] =
      .ok (.motorangle ⟨1, 0x56, 0xFF, 1, 1, 0x015A⟩) := by rfl

/-- R71, R78: CARHORN (B6.1). -/
theorem test_decode_carhorn :
    decodeBytes [0x55, 0xAA, 0x03, 0x01, 0x03, 0x00, 0x00, 0x01, 0x08, 0x00, 0x0A, 0x0D] =
      .ok (.carhorn ⟨1, 3, 0, 0, 1, 0x0008⟩) := by rfl

/-- R71, R79: CARLIGHT (B7.2). -/
theorem test_decode_carlight :
    decodeBytes [0x55, 0xAA, 0x04, 0x01, 0x05, 0x00, 0x00, 0x01, 0x0B, 0x00, 0x0A, 0x0D] =
      .ok (.carlight ⟨1, 5, 0, 0, 1, 0x000B⟩) := by rfl

/-- R71, R80: CARCONFIRMATION (B8.1). -/
theorem test_decode_carconfirmation :
    decodeBytes [0x55, 0xAA, 0x05, 0x01, 0x00, 0x3C, 0x00, 0x01, 0x43, 0x00, 0x0A, 0x0D] =
      .ok (.carconfirmation ⟨1, 0, 0x3C, 0, 1, 0x0043⟩) := by rfl

/-- R85: the request vectors of the port operations, bits rst, busy, tick, cal_req, dec_req. -/
theorem test_decode_vectors :
    [0b00001, 0b00101].map decodeVector = [.decode, .decode] ∧
    [0b00010, 0b00011, 0b00110, 0b00111].map decodeVector = [.calibrate, .calibrate, .calibrate, .calibrate] ∧
    [0b01100, 0b01101, 0b01110, 0b01111].map decodeVector = [.tick, .tick, .tick, .tick] ∧
    [0b00000, 0b00100, 0b01000, 0b01011, 0b10000, 0b11111].map decodeVector =
      [.encode, .encode, .encode, .encode, .encode, .encode] := by decide

/-- R83, R84: bytes that are no command are rejected by name (B3.2, B3.3, B3.8, eleven bytes). -/
theorem test_decode_rejects :
    decodeBytes [0x34, 0x12, 0x01, 0x01, 0x3C, 0x01, 0x00, 0x01, 0x40, 0x00, 0x0A, 0x0D] = .error .sentinel ∧
    decodeBytes [0x55, 0xAA, 0x01, 0x01, 0x3C, 0x01, 0x00, 0x01, 0x40, 0x00, 0x0D, 0x0A] = .error .sentinel ∧
    decodeBytes [0x55, 0xAA, 0x00, 0x00, 0x00, 0x00, 0x00, 0x01, 0x01, 0x00, 0x0A, 0x0D] =
      .error (.unknownCommand 0) ∧
    decodeBytes [0x55, 0xAA, 0x01, 0x01, 0x3C, 0x01, 0x00, 0x01, 0x40, 0x00, 0x0A] = .error .length := by
  refine ⟨?_, ?_, ?_, ?_⟩ <;> rfl

/-- R71: the u96 value of the frame of R111's example, in the opcode table's numbering. -/
theorem test_table_word_motor : decodeTableWord 96 0x0D0A00400100013C0101AA55 = some (.motor motorBody) := by decide

/-- R73: the matches of the table, their other bits 0, one row each. -/
theorem test_table_words :
    [0x0D0A0000000000000001AA55, 0x0D0A0000000000000002AA55, 0x0D0A0000000000000003AA55, 0x0D0A0000000000000004AA55,
      0x0D0A0000000000000005AA55, 0x0D0A0000000000000006AA55].map (decodeTableWord 96) =
      [some (.motor ⟨0, 0, 0, 0, 0, 0⟩), some (.motorangle ⟨0, 0, 0, 0, 0, 0⟩), some (.carhorn ⟨0, 0, 0, 0, 0, 0⟩),
        some (.carlight ⟨0, 0, 0, 0, 0, 0⟩), some (.carconfirmation ⟨0, 0, 0, 0, 0, 0⟩), none] := by decide

/-- R71: the encoder writes the bytes of A7. -/
theorem test_encode_motor : encode (.motor motorBody) = some (.frame motorFrame) := by rfl

/-- A placed word runs: the frame of R111's example from reset makes the call of A7. -/
theorem test_step_runs_placed_word :
    (nextOf (step (State.reset.withFetchWord 96 0x0D0A00400100013C0101AA55))).map (fun t => (t.strobes, t.records)) =
      some (⟨true, false, .ok, some (.speedSet 1 60 1)⟩, [.speedSet 1 60 1]) := by decide

/-! ### Well-formed terms, and an ill-formed one for each check -/

theorem test_wellFormed :
    [.motor motorBody, .motorangle ⟨1, 0x14, 0, 1, 1, 0x0019⟩, .carhorn ⟨1, 127, 0, 0, 1, 0x0084⟩,
      .carlight ⟨1, 7, 0, 0, 1, 0x000D⟩, .carconfirmation ⟨0xFF, 0xFF, 0xFF, 0xFF, 1, 0x0402⟩,
      .cksum [1, 2], .gotoangle 150 7].all (WellFormed small) = true := by decide

/-- The checksum check (R74; B3.4). -/
theorem test_illFormed_checksum : WellFormed small (.motor ⟨1, 61, 1, 0, 1, 0x0040⟩) = false := by decide
/-- The motor id check (R76; B4.4). -/
theorem test_illFormed_motor_id : WellFormed small (.motor ⟨3, 60, 1, 0, 1, 0x0042⟩) = false := by decide
/-- The speed check (R76; B4.5). -/
theorem test_illFormed_speed : WellFormed small (.motor ⟨1, 101, 1, 0, 1, 0x0069⟩) = false := by decide
/-- The direction check (R76; B4.6). -/
theorem test_illFormed_direction : WellFormed small (.motor ⟨1, 60, 2, 0, 1, 0x0041⟩) = false := by decide
/-- The angle check, both ends (R77; B5.3, B5.5). -/
theorem test_illFormed_angle :
    WellFormed small (.motorangle ⟨1, 0x1A, 0, 1, 1, 0x001F⟩) = false ∧
      WellFormed small (.motorangle ⟨1, 0x5F, 0xFF, 0, 1, 0x0162⟩) = false := by decide
/-- The duration check (R78; B6.4). -/
theorem test_illFormed_duration : WellFormed small (.carhorn ⟨1, 0x80, 0, 0, 1, 0x0085⟩) = false := by decide
/-- The light code check (R79; B7.4). -/
theorem test_illFormed_light_code : WellFormed small (.carlight ⟨1, 8, 0, 0, 1, 0x000E⟩) = false := by decide

/-! ### The operations -/

/-- B1.4, B1.5, B1.7, B1.10. -/
theorem test_cksum :
    [[0x01, 0x3C, 0x01, 0x00, 0x01, 0x01], [0x01, 0x3C, 0x01, 0x01, 0x01], [0xFF, 0xFF, 0xFF, 0xFF, 0xFF, 0xFF],
      [0x01, 0x56, 0xFF, 0x01, 0x02, 0x01]].map
        (fun l => (nextOf (exec (.cksum l) (mk small Pac.reset))).map (·.ckResult)) =
      [some 0x0040, some 0x0040, some 0x05FA, some 0x015A] := by decide

/-- B1.1: the empty list gives `CK_BASE`. -/
theorem test_cksum_empty : (nextOf (exec (.cksum []) (mk small Pac.reset))).map (·.ckResult) = some 0 := by decide

/-- ENCODE of a payload port value and an id (byte j of the payload on bits 8j+7..8j). -/
def encoded (payload : BitVec 32) (id : Byte) : Option (BitVec 96 × Half) :=
  (nextOf (exec .encode { mk small Pac.reset with port := { Ports.low with encPayload := payload, encId := id } })).map
    fun t => (t.encFrame, t.encCk)

/-- B2.1 and B2.2. -/
theorem test_encode : encoded 0x00013C01 1 = some (0x0D0A00400100013C0101AA55, 0x0040) ∧
    encoded 0x01FF5601 2 = some (0x0D0A015A0101FF560102AA55, 0x015A) := by decide

/-- B2.4: an unassigned id is encoded too. -/
theorem test_encode_unassigned : encoded 0xFFFFFFFF 255 = some (0x0D0A04FC01FFFFFFFFFFAA55, 0x04FC) := by decide

/-- B3.6, B3.7, B3.9, B3.11, B3.12: which stage rejects, and that the count is not checked. -/
theorem test_decode_stages :
    resultOf Pac.reset [0x34, 0x12, 0x01, 0x01, 0x3C, 0x01, 0x00, 0x01, 0xFF, 0xFF, 0x0A, 0x0D] =
        some (.errSentinel, none) ∧
      resultOf Pac.reset [0x55, 0xAA, 0x09, 0x00, 0x00, 0x00, 0x00, 0x01, 0x00, 0x00, 0x0A, 0x0D] =
        some (.errChecksum, none) ∧
      resultOf Pac.reset [0x55, 0xAA, 0x06, 0x01, 0x02, 0x03, 0x04, 0x01, 0x11, 0x00, 0x0A, 0x0D] =
        some (.errUnknownCmd, none) ∧
      resultOf Pac.reset [0x55, 0xAA, 0x01, 0x01, 0x3C, 0x01, 0x00, 0x02, 0x41, 0x00, 0x0A, 0x0D] =
        some (.ok, some (.speedSet 1 60 1)) ∧
      resultOf Pac.reset [0x55, 0xAA, 0x01, 0x01, 0x3C, 0x01, 0x00, 0x02, 0x40, 0x00, 0x0A, 0x0D] =
        some (.errChecksum, none) := by decide

/-- B3.1: absence comes first. -/
theorem test_decode_absent :
    (nextOf (exec .decode { holding motorFrame (mk small Pac.reset) with port := Ports.low })).map (·.strobes) =
      some ⟨true, false, .errNull, none⟩ := by decide

/-- B4.2 and B4.7: boundary values, and the first failing check wins. -/
theorem test_motor :
    resultOf Pac.reset [0x55, 0xAA, 0x01, 0x02, 0x64, 0x00, 0xEE, 0x01, 0x56, 0x01, 0x0A, 0x0D] =
        some (.ok, some (.speedSet 2 100 0)) ∧
      resultOf Pac.reset [0x55, 0xAA, 0x01, 0x03, 0xC8, 0x09, 0x00, 0x01, 0xD6, 0x00, 0x0A, 0x0D] =
        some (.errMotorId, none) := by decide

/-- B4.5, B4.6. -/
theorem test_motor_fields :
    resultOf Pac.reset [0x55, 0xAA, 0x01, 0x01, 0x65, 0x01, 0x00, 0x01, 0x69, 0x00, 0x0A, 0x0D] =
        some (.errMotorSpeed, none) ∧
      resultOf Pac.reset [0x55, 0xAA, 0x01, 0x01, 0x3C, 0x02, 0x00, 0x01, 0x41, 0x00, 0x0A, 0x0D] =
        some (.errMotorDir, none) := by decide

/-- B5.1: a legal angle in `READY` makes the call and starts the seek to 233. -/
theorem test_motorangle :
    (nextOf (exec .decode (holding [0x55, 0xAA, 0x02, 0x01, 0x14, 0x00, 0x01, 0x01, 0x19, 0x00, 0x0A, 0x0D]
      (mk small calibrated)))).map (fun t => (t.strobes.resultCode, t.records, t.pac)) =
      some (.ok, [.angleSet 20 1], seeking) := by decide

/-- B5.3 and B5.8: 26 degrees are refused; in `UNCAL` a legal angle returns 0 and only the status changes. -/
theorem test_motorangle_refused :
    resultOf calibrated [0x55, 0xAA, 0x02, 0x01, 0x1A, 0x00, 0x01, 0x01, 0x1F, 0x00, 0x0A, 0x0D] =
        some (.errAngle, none) ∧
      (nextOf (exec .decode (holding [0x55, 0xAA, 0x02, 0x01, 0x0A, 0x00, 0x01, 0x01, 0x0F, 0x00, 0x0A, 0x0D]
        (mk small Pac.reset)))).map (fun t => (t.strobes.call, t.pac)) =
        some (some (.angleSet 10 1), { Pac.reset with ctlStatus := .notCalibrated }) := by decide

/-- B6.3, B6.4: 127 seconds are 127000 ms, 0x80 is negative. -/
theorem test_carhorn :
    resultOf Pac.reset [0x55, 0xAA, 0x03, 0x01, 0x7F, 0x00, 0x00, 0x01, 0x84, 0x00, 0x0A, 0x0D] =
        some (.ok, some (.hornTrigger 127000)) ∧
      resultOf Pac.reset [0x55, 0xAA, 0x03, 0x01, 0x80, 0x00, 0x00, 0x01, 0x85, 0x00, 0x0A, 0x0D] =
        some (.errHornDuration, none) := by decide

/-- B7.1, B7.3, B7.4. -/
theorem test_carlight :
    resultOf Pac.reset [0x55, 0xAA, 0x04, 0x01, 0x00, 0x00, 0x00, 0x01, 0x06, 0x00, 0x0A, 0x0D] =
        some (.ok, some (.lightSet 0 1)) ∧
      resultOf Pac.reset [0x55, 0xAA, 0x04, 0x01, 0x07, 0x00, 0x00, 0x01, 0x0D, 0x00, 0x0A, 0x0D] =
        some (.ok, some (.lightSet 3 0)) ∧
      resultOf Pac.reset [0x55, 0xAA, 0x04, 0x01, 0x08, 0x00, 0x00, 0x01, 0x0E, 0x00, 0x0A, 0x0D] =
        some (.errLightCode, none) := by decide

/-- B8.2: every payload is accepted, no call. -/
theorem test_carconfirmation :
    resultOf Pac.reset [0x55, 0xAA, 0x05, 0xFF, 0xFF, 0xFF, 0xFF, 0x01, 0x02, 0x04, 0x0A, 0x0D] = some (.ok, none) := by
  decide

/-- B10.1, from `READY` as in B10.8. -/
theorem test_calibrate :
    (nextOf (exec .calibrate (mk small calibrated))).map (fun t => (t.pac, t.strobes.calAck)) =
      some ({ calibrated with ctlState := .calib, actDuty := 40 }, true) := by decide

/-- The target a directly driven GOTOANGLE writes. -/
def targetAfter (r : Pac) (a : Half) (d : Byte) : Option Int :=
  (nextOf (exec (.gotoangle a d) (mk small r))).map (·.pac.target)

/-- B9.1, B9.3, B9.5, B9.7, B9.8. -/
theorem test_gotoangle :
    [(150, 1), (0, 1), (90, 0), (1, 1), (45, 2)].map (fun x => targetAfter calibrated x.1 x.2) =
      [some 700, some 100, some (-500), some 106, some (-200)] := by decide

/-- B9.9, B9.10: reversed limits, division toward zero. -/
theorem test_gotoangle_reversed :
    [1, 0].map (targetAfter { calibrated with encMin := 500, encMax := -700, encCenter := -100 } 7) =
      [some (-146), some (-54)] := by decide

/-- B10.2 (the third sample), B10.4 (the third sample: `tdiv(-3, 2)` = -1). -/
theorem test_tick_limits :
    ticked small { sweeping with dbLast := -5, dbValid := true, dbCnt := 1 } (-5) =
        some { sweeping with dbLast := -5, encMin := -5, sub := .second, actDuty := 0 } ∧
      ticked small { sweepingUp with dbLast := 2, dbValid := true, dbCnt := 1 } 2 =
        some { sweepingUp with
          dbLast := 2, encMax := 2, encCenter := -1, ctlState := .ready, sub := .first, ctlStatus := .calOk,
          actDuty := 0 } := by decide

/-- B11.2, B11.3, B11.4, B11.7. -/
theorem test_tick_sample :
    ticked small seeking 235 = some { seeking with ctlState := .ready, ctlStatus := .seekOk } ∧
      ticked small seeking 236 = some { seeking with sub := .second, actDuty := 30 } ∧
      ticked small seeking 230 = some { seeking with sub := .second, actDuty := 30, actDir := true } ∧
      ticked { small with seekDutyMode := .proportional, kp := 2 } seeking 240 =
        some { seeking with sub := .second, actDuty := 14 } := by decide

/-- B12.1: CALIBRATE is taken before a DECODE, and `tick` is ignored. -/
theorem test_step_calibrate_first :
    (nextOf (step { mk small calibrated with
      inbox := [{ frameDrive motorFrame with calReq := true, tick := true }] })).map
        (fun t => (t.strobes, t.records, t.pac.ctlState)) =
      some (⟨false, true, .ok, none⟩, [], .calib) := by decide

/-- B12.5: a reset in the middle of a drive interval. -/
theorem test_step_reset :
    (nextOf (step { mk small { seeking with sub := .second, actDuty := 30 } with
      inbox := [{ Drive.quiet with rst := true, tick := true }] })).map (·.pac) = some Pac.reset := by decide

/-- R86: the text forms `MOTOR 1, 60, 1` and `MOTORANGLE 1, -170, 1` stand for the frames of A7 and A8. -/
theorem test_text_forms :
    (TextForm.motor 1 60 1).bytes? small = some motorFrame ∧
      (TextForm.motorangle 1 (BitVec.ofInt 16 (-170)) 1).bytes? small =
        some [0x55, 0xAA, 0x02, 0x01, 0x56, 0xFF, 0x01, 0x01, 0x5A, 0x01, 0x0A, 0x0D] := by decide

/-- R86: `CARCONFIRMATION 1, 0, 60` is the frame of B8.1, and `NOFRAME` asks for a DECODE without a frame. -/
theorem test_text_forms_more :
    (TextForm.carconfirmation 1 0 60).drive small =
        frameDrive [0x55, 0xAA, 0x05, 0x01, 0x00, 0x3C, 0x00, 0x01, 0x43, 0x00, 0x0A, 0x0D] ∧
      (TextForm.noFrame.drive small).decReq = true ∧ (TextForm.noFrame.drive small).framePresent = false := by decide

/-! ### Witnesses: a concrete state and operands for every obligation with hypotheses -/

theorem small_wf : small.Wf := by constructor <;> decide
theorem default_wf : Params.default.Wf := by constructor <;> decide

/-- A parameter set with time limits of 3 ticks. -/
def limited : Params := { small with calTimeoutTicks := 3, seekTimeoutTicks := 3 }

theorem limited_wf : limited.Wf := by constructor <;> decide

theorem sweeping_wf : sweeping.Wf small := by
  constructor <;> first | decide | (constructor <;> decide)

theorem calibrated_wf : calibrated.Wf small := by
  constructor <;> first | decide | (constructor <;> decide)

theorem seeking_wf : seeking.Wf small := by
  constructor <;> first | decide | (constructor <;> decide)

/-- The registers of P4, whose limits are reversed. -/
def reversed : Pac := { calibrated with encMin := 500, encMax := -700, encCenter := -100 }

theorem mk_inv {p : Params} {r : Pac} (hp : p.Wf) (hr : r.Wf p) (he : FitsS p.encW 0) : (mk p r).Inv :=
  ⟨hp, Memory.wf_nil, he, hr⟩

theorem seeking_limited_inv : (mk limited seeking).Inv :=
  mk_inv limited_wf (by constructor <;> first | decide | (constructor <;> decide)) fitsS_zero

/-- StepKeepsInvariant: a good state and its step. -/
theorem witness_StepKeepsInvariant :
    State.reset.Inv ∧ ∃ t, step { State.reset with inbox := [Drive.quiet] } = .next t :=
  ⟨⟨default_wf, Memory.wf_nil, fitsS_zero, by constructor <;> first | decide | (constructor <;> decide)⟩, _, rfl⟩

/-- StepChoosesOneOperation: its narrowing, on an `enc_pos` beyond 32 bits, and each of its six cases. -/
theorem witness_StepChoosesOneOperation :
    let idle (d : Drive) : State := { mk small calibrated with inbox := [d] }
    let busy (d : Drive) : State := { mk small seeking with inbox := [d] }
    (idle { Drive.quiet with encPos := 2 ^ 31 }).latch.port.encPos = -2 ^ 31 ∧
      FitsS small.encW (idle { Drive.quiet with encPos := -2 ^ 31 }).nextDrive.encPos ∧
      (idle { Drive.quiet with rst := true }).nextDrive.rst = true ∧
      (calibrated.Idle ∧ (idle { Drive.quiet with calReq := true }).nextDrive.calReq = true) ∧
      (idle (frameDrive motorFrame)).nextDrive.decReq = true ∧
      (idle Drive.quiet).nextDrive.decReq = false ∧
      (¬ seeking.Idle ∧ (busy { Drive.quiet with tick := true }).nextDrive.tick = true) ∧
      (busy Drive.quiet).nextDrive.tick = false := by
  unfold FitsS
  decide

/-- StepRunsDecodedFrame: a presented frame that decodes. -/
theorem witness_StepRunsDecodedFrame :
    let s : State := { State.reset with inbox := [frameDrive motorFrame] }
    s.nextDrive.rst = false ∧ s.pac.Idle ∧ s.nextDrive.calReq = false ∧ s.nextDrive.decReq = true ∧
      s.nextDrive.framePresent = true ∧ s.latch.fb.bytes = motorFrame := by decide

/-- PlacedWordRunsNext: a frame's word, and the largest request vector without `rst`. -/
theorem witness_PlacedWordRunsNext :
    State.reset.fb.wf ∧ decodeTableWord 96 0x0D0A00400100013C0101AA55 = some (.motor motorBody) ∧
      decodeTableWord 8 15 = some .tick ∧ decodeTableWord 8 0 = some .encode := by decide

/-- StepWithRstResetsEveryRegister: a busy block is reset. -/
theorem witness_StepWithRstResetsEveryRegister :
    { mk small seeking with inbox := [{ Drive.quiet with rst := true }] }.nextDrive.rst = true := by rfl

/-- HeldFrameIsServedWhenIdle: P5's last steps, the frame held over the tick that ends the seek, then served. -/
theorem witness_HeldFrameIsServedWhenIdle :
    let d : Drive := { Drive.quiet with decReq := true, framePresent := true }
    let t : State := { holding motorFrame (mk small seeking) with
      inbox := [{ d with tick := true, encPos := 232 }] ++ d :: [] }
    HoldsFrame t.port.framePresent { d with tick := true, encPos := 232 } ∧ HoldsFrame t.port.framePresent d ∧
      d.rst = false ∧ d.calReq = false ∧ ∃ u, Sys2Proof.core.run 1 t = .next u ∧ u.pac.Idle := by
  refine ⟨⟨rfl, rfl, rfl⟩, ⟨rfl, rfl, rfl⟩, rfl, rfl, _, rfl, ?_⟩
  decide

/-- RequestWhileBusyIsLost: a quiet step of a seek against one with both requests. -/
theorem witness_RequestWhileBusyIsLost :
    ∃ t t', ¬ (mk small seeking).pac.Idle ∧ step { mk small seeking with inbox := [Drive.quiet] } = .next t ∧
      step { mk small seeking with inbox := [{ frameDrive motorFrame with calReq := true }] } = .next t' :=
  ⟨_, _, by decide, rfl, rfl⟩

/-- StepStoresOnlyHostBytes: two stores at one address, the later one stands; address 11 is left. -/
theorem witness_StepStoresOnlyHostBytes :
    let s : State := { State.reset with inbox := [{ Drive.quiet with fbWrites := [(0, 7), (0, 9)] }] }
    s.fb.wf ∧ (nextOf (step s)).map (fun t => t.fb.get 0) = some 9 ∧ (∀ w ∈ s.nextDrive.fbWrites, w.1.val ≠ 11) ∧
      s.nextDrive.fbWrites = [(0, 7)] ++ (0, 9) :: [] := by
  refine ⟨Memory.wf_nil, by decide, ?_, rfl⟩
  show ∀ w ∈ ([(0, 7), (0, 9)] : List (Fin 12 × Byte)), w.1.val ≠ 11
  simp

/-- OperationsLeaveWorldAlone and OnlyControllerOperationsTouchRegisters: every operation answers a next state. -/
theorem witness_OperationsComplete :
    [Instr.motor motorBody, .motorangle ⟨1, 0x14, 0, 1, 1, 0x0019⟩, .carhorn ⟨1, 3, 0, 0, 1, 0x0008⟩,
      .carlight ⟨1, 5, 0, 0, 1, 0x000B⟩, .carconfirmation ⟨1, 0, 0x3C, 0, 1, 0x0043⟩, .cksum [1], .encode, .decode,
      .calibrate, .gotoangle 20 1, .tick].all
        (fun i => (nextOf (exec i (holding motorFrame (mk small calibrated)))).isSome) = true ∧
      (holding motorFrame (mk small calibrated)).fb.frame.id ≠ 2 := by decide

/-- StepKeepsMotionRules: a sweep obeys them. -/
theorem witness_StepKeepsMotionRules :
    small.Wf ∧ sweeping.MotionWf small ∧ ∃ t, step { mk small sweeping with inbox := [Drive.quiet] } = .next t :=
  ⟨small_wf, by constructor <;> decide, _, rfl⟩

/-- TransitionsAreTheTable: a reset, CALIBRATE and GOTOANGLE in both idle states, and the ticks that end a sweep, a
calibration and a seek, each at its boundary. -/
theorem witness_TransitionsAreTheTable :
    let on (p : Params) (r : Pac) (d : Drive) :=
      (nextOf (step { mk p r with inbox := [d] })).map fun t => (t.pac.ctlState, t.pac.ctlStatus)
    let after (p : Params) (r : Pac) (e : Int) := on p r { Drive.quiet with tick := true, encPos := e }
    let angle : Drive := frameDrive [0x55, 0xAA, 0x02, 0x01, 0x14, 0x00, 0x01, 0x01, 0x19, 0x00, 0x0A, 0x0D]
    on small seeking { Drive.quiet with rst := true } = some (.uncal, .noneYet) ∧
      on small calibrated { Drive.quiet with calReq := true } = some (.calib, .noneYet) ∧
      on small Pac.reset angle = some (.uncal, .notCalibrated) ∧
      on small calibrated angle = some (.seek, .noneYet) ∧
      after limited { sweeping with tmo := 3 } 0 = some (.uncal, .calTimeout) ∧
      after limited { sweeping with tmo := 2 } 0 = some (.calib, .noneYet) ∧
      after small { sweepingUp with dbLast := 2, dbValid := true, dbCnt := 1 } 2 = some (.ready, .calOk) ∧
      after limited { seeking with tmo := 3 } 233 = some (.ready, .seekTimeout) ∧
      after small { reversed with ctlState := .seek, target := -146 } (-146) = some (.ready, .rangeFault) ∧
      after small seeking 235 = some (.ready, .seekOk) ∧ after small seeking 236 = some (.seek, .noneYet) := by
  decide

/-- CalibrationRegistersHaveOneWriter: steps that change `ENC_MIN`, and `ENC_MAX`. -/
theorem witness_CalibrationRegistersHaveOneWriter :
    let after (r : Pac) (e : Int) :=
      (nextOf (step { mk small r with inbox := [{ Drive.quiet with tick := true, encPos := e }] })).map (·.pac)
    (after { sweeping with dbLast := -5, dbValid := true, dbCnt := 1 } (-5)).map (·.encMin) = some (-5) ∧
      (after { sweepingUp with dbLast := 2, dbValid := true, dbCnt := 1 } 2).map (·.encMax) = some 2 := by decide

/-- EncodedInstructionDecodesToItself: a frame and a vector. -/
theorem witness_EncodedInstructionDecodesToItself :
    encode (.motor motorBody) = some (.frame motorFrame) ∧ encode .tick = some (.vector 0b01100) := by
  exact ⟨rfl, rfl⟩

/-- DecodedBytesEncodeBack. -/
theorem witness_DecodedBytesEncodeBack : decodeBytes motorFrame = .ok (.motor motorBody) := by rfl

/-- OutputPortsFollowState: a call on each port, no call, and a step with `result_valid` = 0. -/
theorem witness_OutputPortsFollowState :
    let withCall (c : Option CallRecord) : State := { mk small calibrated with strobes := okStrobes c }
    (withCall none).strobes.call = none ∧ (withCall (some (.speedSet 1 60 1))).strobes.call = some (.speedSet 1 60 1) ∧
      (withCall (some (.angleSet 20 1))).strobes.call = some (.angleSet 20 1) ∧
      (withCall (some (.hornTrigger 3000))).strobes.call = some (.hornTrigger 3000) ∧
      (withCall (some (.lightSet 2 0))).strobes.call = some (.lightSet 2 0) ∧
      (nextOf (step { mk small calibrated with inbox := [Drive.quiet] })).map (·.outputs.resultValid) = some false := by
  decide

/-- Sum16IsByteSumModulo: six bytes, at the largest value (B1.7). -/
theorem witness_Sum16IsByteSumModulo :
    ([0xFF, 0xFF, 0xFF, 0xFF, 0xFF, 0xFF] : List Byte).length = 6 ∧
      sum16 [0xFF, 0xFF, 0xFF, 0xFF, 0xFF, 0xFF] = 0x05FA := by decide

/-- Sum16IsByteSumModulo, CksumAnswersChecksum: the default parameters, and B1.6. -/
theorem witness_DefaultChecksum :
    Params.default.ck = .sum16 ∧ Params.default.Wf ∧
      ([0x01, 0x01, 0x00, 0x01, 0x3C, 0x01] : List Byte).Perm [0x01, 0x3C, 0x01, 0x00, 0x01, 0x01] :=
  ⟨rfl, default_wf, by decide⟩

/-- EncodedFrameIsAccepted: the frame of B2.1 in the buffer of the block that built it. -/
theorem witness_EncodedFrameIsAccepted :
    let e : State := { mk small Pac.reset with port := { Ports.low with encPayload := 0x00013C01, encId := 1 } }
    let s : State := holding motorFrame (mk small Pac.reset)
    ∃ e', exec .encode e = .next e' ∧ s.cfg = e.cfg ∧ s.pac.Idle ∧ s.port.framePresent = true ∧
      (∀ k, k < 12 → s.fb.get k = e'.encFrame.extractLsb' (8 * k) 8) ∧
      Command.motor.id = e.port.encId ∧ legal s.cfg .motor s.fb.frame.body = true := by
  refine ⟨_, rfl, rfl, ?_, rfl, ?_, rfl, ?_⟩ <;> decide

/-- DecodeOfAbsentFrame. -/
theorem witness_DecodeOfAbsentFrame :
    (mk small calibrated).pac.Idle ∧ (mk small calibrated).port.framePresent = false := by decide

/-- DecodeOfWrongMarker: each of the four bytes wrong by itself. -/
theorem witness_DecodeOfWrongMarker :
    (holding (motorFrame.set 0 0x54) (mk small Pac.reset)).fb.get 0 ≠ 0x55 ∧
      (holding (motorFrame.set 1 0x2A) (mk small Pac.reset)).fb.get 1 ≠ 0xAA ∧
      (holding (motorFrame.set 10 0x0D) (mk small Pac.reset)).fb.get 10 ≠ 0x0A ∧
      (holding (motorFrame.set 11 0x0A) (mk small Pac.reset)).fb.get 11 ≠ 0x0D ∧
      (holding (motorFrame.set 11 0x0A) (mk small Pac.reset)).pac.Idle ∧
      (holding (motorFrame.set 11 0x0A) (mk small Pac.reset)).port.framePresent = true := by decide

/-- The markers of a buffer are good. -/
def goodMarkers (s : State) : Prop :=
  s.fb.get 0 = 0x55 ∧ s.fb.get 1 = 0xAA ∧ s.fb.get 10 = 0x0A ∧ s.fb.get 11 = 0x0D

/-- The checksum field of a buffer is that of its covered bytes. -/
def goodChecksum (s : State) : Prop :=
  ck16 s.cfg [s.fb.get 3, s.fb.get 4, s.fb.get 5, s.fb.get 6, s.fb.get 2, s.fb.get 7] =
    leHalf (s.fb.get 8) (s.fb.get 9)

/-- DecodeOfWrongChecksum (B3.4). -/
theorem witness_DecodeOfWrongChecksum :
    let s : State := holding (motorFrame.set 4 0x3D) (mk small Pac.reset)
    s.pac.Idle ∧ s.port.framePresent = true ∧ goodMarkers s ∧ ¬ goodChecksum s := by
  unfold goodMarkers goodChecksum
  decide

/-- SingleBitFlipIsReported: bit 0 of byte 4 of an accepted frame (B3.4). -/
theorem witness_SingleBitFlipIsReported :
    let s : State := holding motorFrame (mk small Pac.reset)
    let s' : State := holding (motorFrame.set 4 0x3D) (mk small Pac.reset)
    s.pac.Idle ∧ s.port.framePresent = true ∧
      resultOf Pac.reset motorFrame = some (.ok, some (.speedSet 1 60 1)) ∧
      s'.pac.Idle ∧ s'.port.framePresent = true ∧ s'.cfg = s.cfg ∧
      ∀ a, a < 12 → s'.fb.get a = if a = 4 then s.fb.get a ^^^ BitVec.twoPow 8 0 else s.fb.get a := by
  decide

/-- DecodeOfUnassignedId: ids 0, 6 and 255 (B3.8 to B3.10). -/
theorem witness_DecodeOfUnassignedId :
    let frame (id : Byte) (lo hi : Byte) : List Byte := [0x55, 0xAA, id, 0, 0, 0, 0, 1, lo, hi, 0x0A, 0x0D]
    let s0 : State := holding (frame 0 1 0) (mk small Pac.reset)
    let s6 : State := holding (frame 6 7 0) (mk small Pac.reset)
    let s255 : State := holding (frame 255 0 1) (mk small Pac.reset)
    (s0.pac.Idle ∧ s0.port.framePresent = true ∧ goodMarkers s0 ∧ goodChecksum s0 ∧ s0.fb.get 2 = 0) ∧
      (goodMarkers s6 ∧ goodChecksum s6 ∧ 6 ≤ (s6.fb.get 2).toNat) ∧
      (goodMarkers s255 ∧ goodChecksum s255 ∧ 6 ≤ (s255.fb.get 2).toNat) := by
  unfold goodMarkers goodChecksum
  decide

/-- DecodeRunsSelectedCommand, DecodeReportsLeastCause, SuccessfulDecodeMakesOneCall. -/
theorem witness_DecodeOfGoodFrame :
    let s : State := holding motorFrame (mk small calibrated)
    s.pac.Idle ∧ s.port.framePresent = true ∧ goodMarkers s ∧ s.fb.get 2 = Command.motor.id ∧
      ∃ t, exec .decode s = .next t ∧ t.strobes.resultCode = .ok := by
  unfold goodMarkers
  refine ⟨by decide, by decide, by decide, by decide, _, rfl, by decide⟩

/-- FailedDecodeChangesNothing (B4.4). -/
theorem witness_FailedDecodeChangesNothing :
    resultOf calibrated [0x55, 0xAA, 0x01, 0x03, 0x3C, 0x01, 0x00, 0x01, 0x42, 0x00, 0x0A, 0x0D] =
      some (.errMotorId, none) ∧ calibrated.Idle := by decide

/-- DecodeResultDependsOnFrameOnly: an uncalibrated and a calibrated block with one frame. -/
theorem witness_DecodeResultDependsOnFrameOnly :
    let s : State := holding motorFrame (mk small Pac.reset)
    let s' : State := holding motorFrame (mk small calibrated)
    s.pac.Idle ∧ s'.pac.Idle ∧ s'.port.framePresent = s.port.framePresent ∧ s'.cfg = s.cfg ∧
      (∀ a, a < 12 → s'.fb.get a = s.fb.get a) ∧ (nextOf (exec .decode s)).isSome = true ∧
      (nextOf (exec .decode s')).isSome = true := by decide

/-- UnvalidatedBytesHaveNoEffect: two intact frames of each command that differ in every byte it does not look at. -/
theorem witness_UnvalidatedBytesHaveNoEffect :
    (intact small 1 ⟨1, 60, 1, 0, 1, 0x0040⟩ && intact small 1 ⟨1, 60, 1, 5, 2, 0x0046⟩ &&
      intact small 2 ⟨1, 0x14, 0, 1, 1, 0x0019⟩ && intact small 2 ⟨2, 0x14, 0, 1, 2, 0x001B⟩ &&
      intact small 3 ⟨1, 3, 0, 0, 1, 0x0008⟩ && intact small 3 ⟨2, 3, 1, 1, 2, 0x000C⟩ &&
      intact small 4 ⟨1, 5, 0, 0, 1, 0x000B⟩ && intact small 4 ⟨2, 5, 1, 1, 2, 0x000F⟩ &&
      intact small 5 ⟨1, 0, 60, 0, 1, 0x0043⟩ && intact small 5 ⟨0, 1, 0, 1, 2, 0x0009⟩) = true := by decide

/-- UnservedRequestsChangeNothing: both busy states and both idle states. -/
theorem witness_UnservedRequestsChangeNothing :
    sweeping.ctlState = .calib ∧ seeking.ctlState = .seek ∧ Pac.reset.ctlState = .uncal ∧
      calibrated.ctlState = .ready := by decide

/-- WrongChecksumStopsEveryCommand (B3.5). -/
theorem witness_WrongChecksumStopsEveryCommand :
    (mk small calibrated).pac.Idle ∧ ck16 small [1, 60, 1, 0, Command.motor.id, 1] ≠ 0x0041 := by decide

/-- MotorChecksThenCalls: an intact frame for each of its four ends, at the boundary of each check. -/
theorem witness_MotorChecksThenCalls :
    (mk small calibrated).pac.Idle ∧ ck16 small [0, 60, 1, 0, 1, 1] = 0x003F ∧
      ck16 small [1, 101, 1, 0, 1, 1] = 0x0069 ∧ ck16 small [1, 100, 2, 0, 1, 1] = 0x0069 ∧
      ck16 small [2, 100, 0, 0, 1, 1] = 0x0068 := by decide

/-- MotorangleChecksThenSteers: -161, -160, 25 and 26 degrees. -/
theorem witness_MotorangleChecksThenSteers :
    (mk small calibrated).Inv ∧ (mk small Pac.reset).Inv ∧
      ck16 small [1, 0x5F, 0xFF, 0, 2, 1] = 0x0162 ∧ (leHalf 0x5F 0xFF).toInt < small.angleMin ∧
      ck16 small [1, 0x60, 0xFF, 0, 2, 1] = 0x0163 ∧ small.angleMin ≤ (leHalf 0x60 0xFF).toInt ∧
      ck16 small [1, 0x19, 0, 1, 2, 1] = 0x001E ∧ (leHalf 0x19 0).toInt ≤ small.angleMax ∧
      ck16 small [1, 0x1A, 0, 1, 2, 1] = 0x001F ∧ small.angleMax < (leHalf 0x1A 0).toInt := by
  refine ⟨mk_inv small_wf calibrated_wf fitsS_zero, mk_inv small_wf ?_ fitsS_zero, ?_⟩
  · constructor <;> first | decide | (constructor <;> decide)
  · decide

/-- CarhornChecksThenCalls: 127 and 128 (B6.3, B6.4). -/
theorem witness_CarhornChecksThenCalls :
    (mk small calibrated).pac.Idle ∧ ck16 small [1, 0x7F, 0, 0, 3, 1] = 0x0084 ∧
      ck16 small [1, 0x80, 0, 0, 3, 1] = 0x0085 := by decide

/-- CarlightMapsCodes: 7 and 8 (B7.3, B7.4). -/
theorem witness_CarlightMapsCodes :
    (mk small calibrated).pac.Idle ∧ ck16 small [1, 7, 0, 0, 4, 1] = 0x000D ∧
      ck16 small [1, 8, 0, 0, 4, 1] = 0x000E := by decide

/-- CarconfirmationReturnsOk, WellFormedCommandsAreTheAcceptedOnes (B8.2). -/
theorem witness_CarconfirmationReturnsOk :
    (mk small calibrated).pac.Idle ∧ ck16 small [0xFF, 0xFF, 0xFF, 0xFF, 5, 1] = 0x0402 := by decide

/-- CalibrateStartsFirstSweep: both idle states. -/
theorem witness_CalibrateStartsFirstSweep : (mk small Pac.reset).pac.Idle ∧ (mk small calibrated).pac.Idle := by
  decide

/-- GotoAngleStartsSeek, AngleMapProperties: a calibrated block; angles 90 and 0, directions 0 and 2. -/
theorem witness_GotoAngleStartsSeek :
    (mk small calibrated).Inv ∧ (mk small calibrated).pac.ctlState = .ready ∧ 90 ≤ (90 : Half).toInt ∧
      (0 : Half).toInt ≤ 0 ∧ calibrated.encMin ≤ calibrated.encMax ∧ (0 : Byte) ≠ small.dirCw ∧
      (2 : Byte) ≠ small.dirCw :=
  ⟨mk_inv small_wf calibrated_wf fitsS_zero, rfl, by decide, by decide, by decide, by decide, by decide⟩

/-- GotoAngleUncalibratedOnlySetsStatus (B5.8). -/
theorem witness_GotoAngleUncalibratedOnlySetsStatus :
    (mk small Pac.reset).pac.ctlState = .uncal ∧ WellFormed small (.motorangle ⟨1, 0x0A, 0, 1, 1, 0x000F⟩) = true := by
  decide

/-- RangeFaultExactlyWhenLimitsReversed: the seek of P4, and one in range. -/
theorem witness_RangeFaultExactlyWhenLimitsReversed :
    (mk limited { reversed with ctlState := .seek, target := -146, tmo := 2 }).Inv ∧
      (mk limited seeking).Inv ∧ 2 + 1 ≤ limited.seekTimeoutTicks ∧ reversed.encMax < reversed.encMin := by
  refine ⟨mk_inv limited_wf ?_ fitsS_zero, seeking_limited_inv, by decide, by decide⟩
  constructor <;> first | decide | (constructor <;> decide)

/-- NoRegisterWriteOverflows: good registers and a sample at the edge of its width. -/
theorem witness_NoRegisterWriteOverflows :
    small.Wf ∧ seeking.Wf small ∧ FitsS small.encW (2 ^ 31 - 1) ∧ seeking.calibrated = true ∧
      matchCount small 0 seeking < small.calStableN ∧
      seeking.pace + 1 < max small.calSettleTicks (max small.driveTicks small.stopTicks) ∧
      2 + 1 ≤ max limited.calTimeoutTicks limited.seekTimeoutTicks :=
  ⟨small_wf, seeking_wf, by constructor <;> decide, by decide, by decide, by decide, by decide⟩

/-- SweepStepDetectsLimits: `TMO` 3 (past the limit of 3 ticks) and 2 (within it), a count below and at the limit, and the
second sweep. -/
theorem witness_SweepStepDetectsLimits :
    (mk limited { sweeping with tmo := 3 }).Inv ∧ (mk limited { sweeping with tmo := 2 }).Inv ∧
      (mk small sweepingUp).Inv ∧ limited.calTimeoutTicks < 3 + 1 ∧ ¬ limited.calTimeoutTicks < 2 + 1 ∧
      0 < limited.calStableN ∧ matchCount small 0 { sweeping with dbValid := true, dbCnt := 1 } = small.calStableN := by
  refine ⟨mk_inv limited_wf ?_ fitsS_zero, mk_inv limited_wf ?_ fitsS_zero, mk_inv small_wf ?_ fitsS_zero,
    by decide, by decide, by decide, by decide⟩
  all_goals constructor <;> first | decide | (constructor <;> decide)

/-- DebounceNeedsSteadySamples: both sweeps, three steady samples with `CAL_STABLE_N` = 2 at a limit of three ticks, and two
samples. -/
theorem witness_DebounceNeedsSteadySamples :
    limited.Wf ∧ sweeping.tmo + ([-5, -5, -4] : List Int).length ≤ limited.calTimeoutTicks ∧
      (sweeping.ctlState = .calib ∧ sweeping.sub = .first ∧ sweeping.dbValid = false) ∧
      (sweepingUp.ctlState = .calib ∧ sweepingUp.sub = .third ∧ sweepingUp.dbValid = false ∧
        FitsS limited.encW sweepingUp.encMin) ∧
      (∀ e ∈ ([-5, -5, -4] : List Int), FitsS limited.encW e) ∧
      ([-5, -5, -4] : List Int).length = limited.calStableN + 1 ∧
      ([-5, -5, -4] : List Int).IsChain (fun a b => (b - a).natAbs ≤ limited.calTol) ∧
      ([-5, -5] : List Int).length ≤ limited.calStableN := by
  unfold FitsS
  refine ⟨limited_wf, by decide, by decide, by decide, by decide, rfl, ?_, by decide⟩
  simp [limited, small]

/-- SettleLastsItsTicks: a settle just begun, one tick and two with `CAL_SETTLE_TICKS` = 2. -/
theorem witness_SettleLastsItsTicks :
    let r : Pac := { sweeping with sub := .second, actDuty := 0 }
    (mk small r).Inv ∧ r.ctlState = .calib ∧ r.sub = .second ∧ r.pace = 0 ∧
      ([0] : List Int).length < small.calSettleTicks ∧ ([0, 0] : List Int).length = small.calSettleTicks := by
  refine ⟨mk_inv small_wf ?_ fitsS_zero, rfl, rfl, rfl, by decide, by decide⟩
  constructor <;> first | decide | (constructor <;> decide)

/-- SampleStepSteersToTarget. -/
theorem witness_SampleStepSteersToTarget :
    (mk limited seeking).Inv ∧ seeking.ctlState = .seek ∧ seeking.sub = .first :=
  ⟨seeking_limited_inv, rfl, rfl⟩

/-- DriveAndStopStepsPace: a drive and a stop interval, past the time limit and within it. -/
theorem witness_DriveAndStopStepsPace :
    (mk limited { seeking with sub := .second, actDuty := 30, tmo := 3 }).Inv ∧
      (mk limited { seeking with sub := .third, tmo := 2 }).Inv ∧ limited.seekTimeoutTicks < 3 + 1 ∧
      ¬ limited.seekTimeoutTicks < 2 + 1 := by
  refine ⟨mk_inv limited_wf ?_ fitsS_zero, mk_inv limited_wf ?_ fitsS_zero, by decide, by decide⟩
  all_goals constructor <;> first | decide | (constructor <;> decide)

/-- PulseLastsItsTicks: `DRIVE_TICKS` = 3, `STOP_TICKS` = 2 (B11.10); 2, 3, 4 and 5 ticks. -/
theorem witness_PulseLastsItsTicks :
    let p : Params := { small with driveTicks := 3, stopTicks := 2 }
    let r : Pac := { seeking with sub := .second, actDuty := 30 }
    p.Wf ∧ p.seekTimeoutTicks = 0 ∧ r.ctlState = .seek ∧ r.sub = .second ∧ r.pace = 0 ∧
      ([0, 0] : List Int).length < p.driveTicks ∧ p.driveTicks ≤ ([0, 0, 0] : List Int).length ∧
      ([0, 0, 0, 0] : List Int).length < p.driveTicks + p.stopTicks ∧
      ([0, 0, 0, 0, 0] : List Int).length = p.driveTicks + p.stopTicks := by
  refine ⟨by constructor <;> decide, rfl, rfl, rfl, rfl, by decide, by decide, by decide, by decide⟩

/-- SeekTimeLimitEndsSeek: four scripted ticks against a limit of 3. -/
theorem witness_SeekTimeLimitEndsSeek :
    let ds : List Drive := List.replicate 4 { Drive.quiet with tick := true }
    let s : State := { mk limited seeking with inbox := ds }
    s.Inv ∧ s.pac.ctlState = .seek ∧ s.pac.tmo = 0 ∧ s.cfg.seekTimeoutTicks ≠ 0 ∧ s.inbox = ds ++ [] ∧
      ds.length = s.cfg.seekTimeoutTicks + 1 ∧ ∀ d ∈ ds, OnlyTick d := by
  refine ⟨⟨limited_wf, Memory.wf_nil, fitsS_zero, seeking_limited_inv.pac_wf⟩, rfl, rfl, by decide, rfl, rfl, ?_⟩
  intro d hd
  rw [List.eq_of_mem_replicate hd]
  exact ⟨rfl, rfl, rfl, rfl⟩

/-- CalibrationTimeLimitEndsCalibration: ten samples against a limit of 3 and a settle of 2. -/
theorem witness_CalibrationTimeLimitEndsCalibration :
    limited.Wf ∧ limited.calTimeoutTicks ≠ 0 ∧ sweeping.ctlState = .calib ∧ sweeping.sub = .first ∧ sweeping.tmo = 0 ∧
      (List.replicate 10 (0 : Int)).length = 2 * (limited.calTimeoutTicks + 1) + limited.calSettleTicks :=
  ⟨limited_wf, by decide, rfl, rfl, rfl, rfl⟩

/-- BusyMayLastForEver: samples just out of tolerance of the target 233, and samples that never settle. -/
theorem witness_BusyMayLastForEver :
    (small.seekTimeoutTicks = 0 ∧ seeking.ctlState = .seek ∧ seeking.encMin ≤ seeking.target ∧
        seeking.target ≤ seeking.encMax ∧ ∀ e ∈ ([230, 236] : List Int), small.seekTol < (e - seeking.target).natAbs) ∧
      (small.calTimeoutTicks = 0 ∧ small.Wf ∧ sweeping.ctlState = .calib ∧ sweeping.sub ≠ .second ∧
        sweeping.dbValid = false ∧ (∀ e ∈ ([0, 2, 0] : List Int), FitsS small.encW e) ∧
        ([0, 2, 0] : List Int).IsChain (fun a b => small.calTol < (b - a).natAbs)) := by
  refine ⟨by decide, rfl, small_wf, rfl, by decide, rfl, ?_, ?_⟩
  · unfold FitsS
    decide
  · simp [small]

end Sys2Proof.Tests
end

section
/-! The frame of the eleven operations (`spec/00_scope.md` R7, R16; `spec/20_memory.md` R50): everything outside the
block is kept, and the call records grow by at most one. The shared operations `whenIdle` and `checksumStage` are
treated once; every operation is then read off the lemma that says what it can answer. -/

namespace Sys2Proof.Machine

/-- From `s` to `t` the world outside the block is left alone, and at most one call has been made. -/
def AtMostOneCall (s t : State) : Prop :=
  SameWorld s t ∧ ∃ l : List CallRecord, t.records = s.records ++ l ∧ l.length ≤ 1

/-! ### The updates of the state -/

theorem AtMostOneCall.of_records_eq {s t : State} (hw : SameWorld s t) (hr : t.records = s.records) :
    AtMostOneCall s t :=
  ⟨hw, [], by simp [hr], by simp⟩

theorem atMostOneCall_setPac (s : State) (r : Pac) : AtMostOneCall s (s.setPac r) :=
  .of_records_eq ⟨rfl, rfl, rfl, rfl, rfl⟩ rfl

theorem atMostOneCall_setStrobes (s : State) (q : Strobes) : AtMostOneCall s (s.setStrobes q) :=
  .of_records_eq ⟨rfl, rfl, rfl, rfl, rfl⟩ rfl

theorem atMostOneCall_setPac_setStrobes (s : State) (r : Pac) (q : Strobes) :
    AtMostOneCall s ((s.setPac r).setStrobes q) :=
  .of_records_eq ⟨rfl, rfl, rfl, rfl, rfl⟩ rfl

/-- The one way an operation makes a call: `call name(args)`, `return RC(0)` (R16; `spec/42_commands.md` R130). -/
theorem atMostOneCall_callAndReturn (s : State) (call : CallRecord) (r : Pac) :
    AtMostOneCall s ((callAndReturn call s).setPac r) :=
  ⟨⟨rfl, rfl, rfl, rfl, rfl⟩, [call], rfl, le_rfl⟩

/-! ### The shared operations -/

theorem whenIdle_atMostOneCall {s t : State} {k : State → Host.Outcome State Fault Refusal}
    (hk : s.pac.Idle → k s = .next t → AtMostOneCall s t) (h : whenIdle s k = .next t) : AtMostOneCall s t := by
  by_cases hi : s.pac.Idle
  · exact hk hi ((whenIdle_of_idle hi).symm.trans h)
  · cases (whenIdle_of_busy hi).symm.trans h
    exact atMostOneCall_setStrobes s _

theorem checksumStage_atMostOneCall {id : Byte} {b : FrameBody} {s t : State}
    {k : State → Host.Outcome State Fault Refusal} (hk : k s = .next t → AtMostOneCall s t)
    (h : checksumStage id b s k = .next t) : AtMostOneCall s t := by
  by_cases hc : ck16 s.cfg (coveredBytes id b) = b.cks
  · exact hk ((checksumStage_of_eq hc).symm.trans h)
  · cases (checksumStage_of_ne hc).symm.trans h
    exact atMostOneCall_setStrobes s _

/-! ### The operations -/

theorem commandStages_atMostOneCall {c : Command} {b : FrameBody} {s t : State} (hi : s.pac.Idle)
    (h : commandStages c b s = .next t) : AtMostOneCall s t := by
  rcases commandStages_cases c b hi with ⟨-, code, -, hfail⟩ | ⟨-, -, hok⟩ | ⟨-, -, call, r, -, hcall⟩
  · cases hfail.symm.trans h
    exact atMostOneCall_setStrobes s _
  · cases hok.symm.trans h
    exact atMostOneCall_setStrobes s _
  · cases hcall.symm.trans h
    exact atMostOneCall_callAndReturn s call r

theorem exec_instr_atMostOneCall {c : Command} {b : FrameBody} {s t : State} (h : exec (c.instr b) s = .next t) :
    AtMostOneCall s t := by
  rw [exec_instr, runCommand_eq] at h
  exact whenIdle_atMostOneCall (fun hi => checksumStage_atMostOneCall (commandStages_atMostOneCall hi)) h

theorem execDecode_atMostOneCall {s t : State} (h : execDecode s = .next t) : AtMostOneCall s t := by
  by_cases hi : s.pac.Idle
  · rcases execDecode_cases hi with ⟨code, -, hfail⟩ | ⟨-, -, -, -, c, -, hrun, -⟩
    · cases hfail.symm.trans h
      exact atMostOneCall_setStrobes s _
    · exact commandStages_atMostOneCall hi (hrun.symm.trans h)
  · cases (execDecode_of_busy hi).symm.trans h
    exact atMostOneCall_setStrobes s _

theorem execCalibrate_atMostOneCall {s t : State} (h : execCalibrate s = .next t) : AtMostOneCall s t := by
  refine whenIdle_atMostOneCall (fun _ hstart => ?_) h
  cases hstart
  exact atMostOneCall_setPac_setStrobes s _ _

/-- GOTOANGLE driven directly makes no record; where it is refused (R163) there is no next state. -/
theorem execGotoangle_atMostOneCall {angle : Half} {dir : Byte} {s t : State}
    (h : execGotoangle angle dir s = .next t) : AtMostOneCall s t := by
  unfold execGotoangle at h
  split at h
  next r _ =>
    cases h
    exact atMostOneCall_setPac s r
  next => cases h

/-- Every operation that answers a next state leaves the world alone and makes at most one call. -/
theorem exec_atMostOneCall {i : Instr} {s t : State} (h : exec i s = .next t) : AtMostOneCall s t := by
  cases i with
  | motor b => exact exec_instr_atMostOneCall (c := .motor) h
  | motorangle b => exact exec_instr_atMostOneCall (c := .motorangle) h
  | carhorn b => exact exec_instr_atMostOneCall (c := .carhorn) h
  | carlight b => exact exec_instr_atMostOneCall (c := .carlight) h
  | carconfirmation b => exact exec_instr_atMostOneCall (c := .carconfirmation) h
  | cksum bytes =>
    cases h
    exact .of_records_eq ⟨rfl, rfl, rfl, rfl, rfl⟩ rfl
  | encode =>
    cases h
    exact .of_records_eq ⟨rfl, rfl, rfl, rfl, rfl⟩ rfl
  | decode => exact execDecode_atMostOneCall h
  | calibrate => exact execCalibrate_atMostOneCall h
  | gotoangle angle dir => exact execGotoangle_atMostOneCall h
  | tick =>
    cases h
    exact atMostOneCall_setPac_setStrobes s _ _

/-- Settles O11, from the frame of every operation. -/
theorem operationsLeaveWorldAlone : Obligations.OperationsLeaveWorldAlone := by
  intro i s t h
  obtain ⟨⟨hfb, hport, hinbox, hstepNo, hcfg⟩, hrecords⟩ := exec_atMostOneCall h
  exact ⟨fun a => by rw [hfb], hfb, hport, hinbox, hstepNo, hcfg, hrecords⟩

end Sys2Proof.Machine
end

section
/-! The invariant of the registers (`spec/10_state.md` R21, R26, R31): it holds after reset, and every operation of the
controller keeps it, rule by rule. What a step can do to the registers is `step_pac`; the induction step over it is
stated once, for any property of the registers. -/

namespace Sys2Proof.Machine

open Sys2Proof.Config

/-- A property of the registers that holds after reset and that CALIBRATE, GOTOANGLE and TICK keep is kept by a step. -/
theorem step_pac_keeps {P : Pac → Prop} {s t : State} (h : step s = .next t) (hreset : P Pac.reset) (hkeep : P s.pac)
    (hcal : P (s.pac.calibrate s.cfg)) (hgoto : ∀ a d r, s.pac.gotoAngle s.cfg a d = some r → P r)
    (htick : P (s.pac.tick s.cfg t.port.encPos)) : P t.pac := by
  rcases step_pac h with ⟨-, ht⟩ | ⟨-, -, -, ht⟩ | ⟨-, -, ht⟩ | ⟨-, -, -, -, a, d, -, ht⟩ | ⟨-, -, -, ht⟩ |
      ⟨-, -, -, ht⟩
  · exact ht ▸ hreset
  · exact ht ▸ hcal
  · exact ht ▸ hkeep
  · exact hgoto a d _ ht
  · exact ht ▸ htick
  · exact ht ▸ hkeep

theorem zero_duty_le : (0 : BitVec 7).toNat ≤ 100 := by decide

theorem encW_pos {p : Params} (hp : p.Wf) : 1 ≤ p.encW := Nat.le_of_succ_le hp.encW_ge

theorem tmoAfter_lt {p : Params} {limit tmo : Nat} (h : tmo < 2 ^ p.cntW) : tmoAfter p limit tmo < 2 ^ p.cntW := by
  unfold tmoAfter
  split
  · exact narrowU_lt _ _
  · exact h

/-- The target of a calibrated block fits a signed count: it lies between the limits (R162 (f)). -/
theorem Pac.Wf.targetOf_fits {p : Params} {r : Pac} (hr : r.Wf p) (hc : r.calibrated = true) (a : Half) (d : Byte) :
    FitsS p.encW (targetOf p r a d) := by
  obtain ⟨hup, hdown⟩ := targetOf_bounds (p := p) (hr.center_mid hc) a d
  exact fitsS_between hr.encMin_fits hr.encMax_fits ((Int.le_total r.encMin r.encMax).imp hup hdown)

/-- So it is written to `TARGET` as it is. -/
theorem Pac.Wf.narrowS_targetOf {p : Params} {r : Pac} (hp : p.Wf) (hr : r.Wf p) (hc : r.calibrated = true) (a : Half)
    (d : Byte) : narrowS (p.encW + 1) (targetOf p r a d) = targetOf p r a d :=
  narrowS_of_fits (by omega) (fitsS_succ hp.encW_ge (hr.targetOf_fits hc a d))

theorem dutyBits_calDuty_toNat {p : Params} (hp : p.Wf) : (dutyBits p.calDuty).toNat = p.calDuty :=
  dutyBits_toNat hp.calDuty_le

theorem dutyBits_seekDutyOf_toNat {p : Params} (hp : p.Wf) (m : Nat) :
    (dutyBits (seekDutyOf p m)).toNat = seekDutyOf p m :=
  dutyBits_toNat (seekDutyOf_le hp m)

/-! ### `Pac.Wf`, operation by operation -/

theorem Pac.reset_wf {p : Params} (hp : p.Wf) : Pac.reset.Wf p where
  encMin_fits := fitsS_zero
  encMax_fits := fitsS_zero
  encCenter_fits := fitsS_zero
  target_fits := fitsS_zero
  dbLast_fits := fitsS_zero
  dbCnt_fits := Nat.two_pow_pos _
  pace_fits := Nat.two_pow_pos _
  tmo_fits := Nat.two_pow_pos _
  dbCnt_lt := hp.calStableN_pos
  duty_le := zero_duty_le
  idle_stopped _ := rfl
  idle_sub _ := rfl
  center_mid h := by cases h
  target_between h := by cases h

theorem Pac.Wf.calibrate {p : Params} {r : Pac} (hp : p.Wf) (hr : r.Wf p) : (r.calibrate p).Wf p :=
  { hr with
    dbCnt_fits := Nat.two_pow_pos _
    pace_fits := Nat.two_pow_pos _
    tmo_fits := Nat.two_pow_pos _
    dbCnt_lt := hp.calStableN_pos
    duty_le := (dutyBits_calDuty_toNat hp).trans_le hp.calDuty_le
    idle_stopped := fun h => absurd h (Pac.not_idle.2 (.inl rfl))
    idle_sub := fun _ => rfl
    center_mid := fun h => by cases h
    target_between := fun h => by cases h }

theorem Pac.Wf.gotoAngle {p : Params} {r r' : Pac} (hp : p.Wf) (hr : r.Wf p) {a : Half} {d : Byte}
    (h : r.gotoAngle p a d = some r') : r'.Wf p := by
  rcases Pac.gotoAngle_cases p a d r with ⟨hc, h'⟩ | ⟨-, h'⟩ | ⟨-, h'⟩ <;> cases h.symm.trans h'
  · have hcal : r.calibrated = true := Pac.calibrated_eq_true.2 (.inl hc)
    exact
      { hr with
        target_fits := narrowS_fits _ (by omega)
        pace_fits := Nat.two_pow_pos _
        tmo_fits := Nat.two_pow_pos _
        idle_stopped := fun _ => hr.idle_stopped (.inr hc)
        idle_sub := fun _ => rfl
        center_mid := fun _ => hr.center_mid hcal
        target_between := fun _ hle =>
          (hr.narrowS_targetOf hp hcal a d).symm ▸ (targetOf_bounds (hr.center_mid hcal) a d).1 hle }
  · exact { hr with }

/-- Both ends of a sweep (R167): the midpoint is written as it is, since both limits fit. -/
theorem Pac.Wf.limitFound {p : Params} {r : Pac} {e : Int} (hp : p.Wf) (hr : r.Wf p) (he : FitsS p.encW e)
    (hc : r.ctlState = .calib) : (r.limitFound p e).Wf p := by
  have hw : 1 ≤ p.encW := encW_pos hp
  unfold Pac.limitFound
  split
  · exact
      { hr with
        encMin_fits := narrowS_fits _ hw
        dbCnt_fits := Nat.two_pow_pos _
        pace_fits := Nat.two_pow_pos _
        tmo_fits := Nat.two_pow_pos _
        dbCnt_lt := hp.calStableN_pos
        duty_le := zero_duty_le
        idle_stopped := fun _ => rfl
        idle_sub := fun h => absurd h (Pac.not_idle.2 (.inl hc))
        center_mid := fun h => by simp [hc] at h
        target_between := fun h => by simp [hc] at h }
  · exact
      { hr with
        encMax_fits := narrowS_fits _ hw
        encCenter_fits := narrowS_fits _ hw
        dbCnt_fits := Nat.two_pow_pos _
        pace_fits := Nat.two_pow_pos _
        tmo_fits := Nat.two_pow_pos _
        dbCnt_lt := hp.calStableN_pos
        duty_le := zero_duty_le
        idle_stopped := fun _ => rfl
        idle_sub := fun _ => rfl
        center_mid := fun _ => by
          rw [narrowS_of_fits hw he, narrowS_of_fits hw (fitsS_midpoint hr.encMin_fits he)]
        target_between := fun h => by cases h }

theorem Pac.Wf.calAbort {p : Params} {r : Pac} (hp : p.Wf) (hr : r.Wf p) : r.calAbort.Wf p :=
  { hr with
    dbCnt_fits := Nat.two_pow_pos _
    pace_fits := Nat.two_pow_pos _
    tmo_fits := Nat.two_pow_pos _
    dbCnt_lt := hp.calStableN_pos
    duty_le := zero_duty_le
    idle_stopped := fun _ => rfl
    idle_sub := fun _ => rfl
    center_mid := fun h => by cases h
    target_between := fun h => by cases h }

/-- A count below `CAL_STABLE_N` is written to `DB_CNT` as it is (R21). -/
theorem narrowU_matchCount {p : Params} {r : Pac} {e : Int} (hp : p.Wf) (h : matchCount p e r < p.calStableN) :
    narrowU p.cntW (matchCount p e r) = matchCount p e r := by
  have := hp.calStableN_lt
  exact narrowU_of_lt (by omega)

theorem Pac.Wf.sweep {p : Params} {r : Pac} {e : Int} (hp : p.Wf) (hr : r.Wf p) (he : FitsS p.encW e)
    (hc : r.ctlState = .calib) : (r.sweep p e).Wf p := by
  rcases Pac.sweep_cases p e r with ⟨-, h⟩ | ⟨-, -, h⟩ | ⟨-, hcnt, h⟩ <;> rw [h]
  · exact hr.calAbort hp
  · exact hr.limitFound hp he hc
  · exact
      { hr with
        dbLast_fits := narrowS_fits _ (encW_pos hp)
        dbCnt_fits := narrowU_lt _ _
        dbCnt_lt := (narrowU_matchCount hp hcnt).trans_lt hcnt
        tmo_fits := tmoAfter_lt hr.tmo_fits }

theorem Pac.Wf.settle {p : Params} {r : Pac} (hp : p.Wf) (hr : r.Wf p) (hc : r.ctlState = .calib) :
    (r.settle p).Wf p := by
  rcases Pac.settle_cases p r with ⟨-, h⟩ | ⟨-, h⟩ <;> rw [h]
  · exact
      { hr with
        pace_fits := Nat.two_pow_pos _
        duty_le := (dutyBits_calDuty_toNat hp).trans_le hp.calDuty_le
        idle_stopped := fun h => absurd h (Pac.not_idle.2 (.inl hc))
        idle_sub := fun h => absurd h (Pac.not_idle.2 (.inl hc)) }
  · exact { hr with pace_fits := narrowU_lt _ _ }

theorem Pac.Wf.seekEnd {p : Params} {r : Pac} (hr : r.Wf p) (hc : r.ctlState = .seek) (st : CtlStatus) :
    (r.seekEnd st).Wf p :=
  { hr with
    pace_fits := Nat.two_pow_pos _
    tmo_fits := Nat.two_pow_pos _
    duty_le := zero_duty_le
    idle_stopped := fun _ => rfl
    idle_sub := fun _ => rfl
    center_mid := fun _ => hr.center_mid (Pac.calibrated_eq_true.2 (.inr hc))
    target_between := fun h => by cases h }

theorem Pac.Wf.sample {p : Params} {r : Pac} {e : Int} (hp : p.Wf) (hr : r.Wf p) (hc : r.ctlState = .seek) :
    (r.sample p e).Wf p := by
  rcases Pac.sample_cases p e r with ⟨-, h⟩ | ⟨-, -, h⟩ | ⟨-, -, -, h⟩ | ⟨-, -, -, h⟩ <;> rw [h]
  · exact hr.seekEnd hc _
  · exact hr.seekEnd hc _
  · exact hr.seekEnd hc _
  · exact
      { hr with
        pace_fits := Nat.two_pow_pos _
        tmo_fits := tmoAfter_lt hr.tmo_fits
        duty_le := (dutyBits_seekDutyOf_toNat hp _).trans_le (seekDutyOf_le hp _)
        idle_stopped := fun h => absurd h (Pac.not_idle.2 (.inr hc))
        idle_sub := fun h => absurd h (Pac.not_idle.2 (.inr hc)) }

theorem Pac.Wf.drive {p : Params} {r : Pac} (hr : r.Wf p) (hc : r.ctlState = .seek) : (r.drive p).Wf p := by
  rcases Pac.drive_cases p r with ⟨-, h⟩ | ⟨-, -, h⟩ | ⟨-, -, h⟩ <;> rw [h]
  · exact hr.seekEnd hc _
  · exact
      { hr with
        pace_fits := Nat.two_pow_pos _
        tmo_fits := tmoAfter_lt hr.tmo_fits
        duty_le := zero_duty_le
        idle_stopped := fun _ => rfl
        idle_sub := fun h => absurd h (Pac.not_idle.2 (.inr hc)) }
  · exact { hr with pace_fits := narrowU_lt _ _, tmo_fits := tmoAfter_lt hr.tmo_fits }

theorem Pac.Wf.stop {p : Params} {r : Pac} (hr : r.Wf p) (hc : r.ctlState = .seek) : (r.stop p).Wf p := by
  rcases Pac.stop_cases p r with ⟨-, h⟩ | ⟨-, -, h⟩ | ⟨-, -, h⟩ <;> rw [h]
  · exact hr.seekEnd hc _
  · exact
      { hr with
        pace_fits := Nat.two_pow_pos _
        tmo_fits := tmoAfter_lt hr.tmo_fits
        idle_sub := fun _ => rfl }
  · exact { hr with pace_fits := narrowU_lt _ _, tmo_fits := tmoAfter_lt hr.tmo_fits }

theorem Pac.Wf.tick {p : Params} {r : Pac} {e : Int} (hp : p.Wf) (hr : r.Wf p) (he : FitsS p.encW e) :
    (r.tick p e).Wf p := by
  rcases Pac.tick_cases p e r with ⟨-, h⟩ | ⟨hc, -, h⟩ | ⟨hc, -, h⟩ | ⟨hc, -, h⟩ | ⟨hc, -, h⟩ | ⟨hc, -, h⟩ <;> rw [h]
  · exact hr
  · exact hr.sweep hp he hc
  · exact hr.settle hp hc
  · exact hr.sample hp hc
  · exact hr.drive hc
  · exact hr.stop hc

/-- Settles O2: the world is what the latch made of it, the registers are what one operation made of them. -/
theorem stepKeepsInvariant : Obligations.StepKeepsInvariant := by
  intro s t hs h
  obtain ⟨hfb, hport, -, -, hcfg⟩ := step_sameWorld h
  have hencPos : FitsS s.cfg.encW t.port.encPos := by
    rw [hport]
    exact narrowS_fits _ (encW_pos hs.cfg_wf)
  rw [State.latch_cfg] at hcfg
  exact
    { cfg_wf := hcfg ▸ hs.cfg_wf
      fb_wf := hfb ▸ Memory.setAll_wf _ hs.fb_wf
      encPos_fits := hcfg ▸ hencPos
      pac_wf := hcfg ▸ step_pac_keeps h (Pac.reset_wf hs.cfg_wf) hs.pac_wf (hs.pac_wf.calibrate hs.cfg_wf)
        (fun _ _ _ => hs.pac_wf.gotoAngle hs.cfg_wf) (hs.pac_wf.tick hs.cfg_wf hencPos) }

/-- The default value of every parameter is within its constraints (R7). -/
theorem defaultParams_wf : Params.default.Wf := by
  constructor <;> decide

/-- Settles O3. -/
theorem resetSatisfiesInvariant : Obligations.ResetSatisfiesInvariant :=
  ⟨defaultParams_wf, Memory.wf_nil, fitsS_zero, Pac.reset_wf defaultParams_wf⟩

/-- Settles O50: the limits, the midpoint and the target fit by the invariant; the counts stay within their parameters,
which fit `CNT_W` bits. -/
theorem noRegisterWriteOverflows : Obligations.NoRegisterWriteOverflows := by
  intro p r e a d hp hr he
  have hw : 1 ≤ p.encW := encW_pos hp
  have hsettle := hp.calSettleTicks_lt
  have hdrive := hp.driveTicks_lt
  have hstop := hp.stopTicks_lt
  have hcalTimeout := hp.calTimeoutTicks_lt
  have hseekTimeout := hp.seekTimeoutTicks_lt
  exact ⟨narrowS_of_fits hw he, narrowS_of_fits hw (fitsS_midpoint hr.encMin_fits he),
    fun hc => hr.narrowS_targetOf hp hc a d, narrowU_matchCount hp, fun h => narrowU_of_lt (by omega),
    fun h => narrowU_of_lt (by omega), dutyBits_calDuty_toNat hp, dutyBits_seekDutyOf_toNat hp⟩

end Sys2Proof.Machine
end

section
/-! The motion rules (`spec/10_state.md` R31; `spec/43_angle_controller.md` R152, R153, R167, R170, R174, R176) and
the one writer of the calibration registers (R22). -/

namespace Sys2Proof.Machine

open Sys2Proof.Config

/-! ### The actuator by phase -/

/-- What the actuator does in each phase: the clauses of `Pac.MotionWf` as one table. -/
def Pac.MotionRule (p : Params) (r : Pac) : Prop :=
  match r.ctlState, r.sub with
  | .calib, .first => r.actDuty = dutyBits p.calDuty ∧ r.actDir = false
  | .calib, .second => r.actDuty = 0
  | .calib, .third => r.actDuty = dutyBits p.calDuty ∧ r.actDir = true
  | .seek, .first => r.actDuty = 0
  | .seek, .second => 1 ≤ r.actDuty.toNat ∧ r.actDuty.toNat ≤ 100
  | .seek, .third => r.actDuty = 0
  | .uncal, _ => r.actDuty = 0
  | .ready, _ => r.actDuty = 0

theorem Pac.motionWf_iff {p : Params} {r : Pac} : r.MotionWf p ↔ r.MotionRule p := by
  constructor
  · intro h
    unfold Pac.MotionRule
    split
    next hc hs => exact h.sweepMin hc hs
    next hc hs => exact h.settle hc hs
    next hc hs => exact h.sweepMax hc hs
    next hc hs => exact h.sample hc hs
    next hc hs => exact h.drive hc hs
    next hc hs => exact h.stop hc hs
    next hc => exact h.idle (.inl hc)
    next hc => exact h.idle (.inr hc)
  · intro h
    unfold Pac.MotionRule at h
    constructor
    case idle => rintro (hc | hc) <;> simpa only [hc] using h
    all_goals
      intro hc hs
      simpa only [hc, hs] using h

theorem Pac.motionWf_of_idle {p : Params} {r : Pac} (hi : r.Idle) (hd : r.actDuty = 0) : r.MotionWf p := by
  rw [Pac.motionWf_iff]
  rcases hi with hc | hc <;> simpa [Pac.MotionRule, hc] using hd

theorem Pac.calibrate_motionWf (p : Params) (r : Pac) : (r.calibrate p).MotionWf p :=
  Pac.motionWf_iff.2 ⟨rfl, rfl⟩

/-- A seek begins stopped, as the idle state it leaves (R160). -/
theorem Pac.gotoAngle_motionWf {p : Params} {r r' : Pac} (hr : r.MotionWf p) {a : Half} {d : Byte}
    (h : r.gotoAngle p a d = some r') : r'.MotionWf p := by
  rcases Pac.gotoAngle_cases p a d r with ⟨hc, h'⟩ | ⟨hc, h'⟩ | ⟨-, h'⟩ <;> cases h.symm.trans h'
  · have hstopped : r.actDuty = 0 := hr.idle (.inr hc)
    exact Pac.motionWf_iff.2 hstopped
  · exact Pac.motionWf_of_idle (.inl hc) (hr.idle (.inl hc))

theorem Pac.limitFound_motionWf {p : Params} {r : Pac} {e : Int} (hc : r.ctlState = .calib) :
    (r.limitFound p e).MotionWf p := by
  unfold Pac.limitFound
  split
  · simp [Pac.motionWf_iff, Pac.MotionRule, hc]
  · exact Pac.motionWf_of_idle (.inr rfl) rfl

theorem Pac.sweep_motionWf {p : Params} {r : Pac} {e : Int} (hr : r.MotionWf p) (hc : r.ctlState = .calib) :
    (r.sweep p e).MotionWf p := by
  rcases Pac.sweep_cases p e r with ⟨-, h⟩ | ⟨-, -, h⟩ | ⟨-, -, h⟩ <;> rw [h]
  · exact Pac.motionWf_of_idle (.inl rfl) rfl
  · exact Pac.limitFound_motionWf hc
  · exact { hr with }

theorem Pac.settle_motionWf {p : Params} {r : Pac} (hr : r.MotionWf p) (hc : r.ctlState = .calib) :
    (r.settle p).MotionWf p := by
  rcases Pac.settle_cases p r with ⟨-, h⟩ | ⟨-, h⟩ <;> rw [h]
  · simp [Pac.motionWf_iff, Pac.MotionRule, hc]
  · exact { hr with }

theorem Pac.seekEnd_motionWf {p : Params} (r : Pac) (st : CtlStatus) : (r.seekEnd st).MotionWf p :=
  Pac.motionWf_of_idle (.inr rfl) rfl

/-- A pulse is given only for an error beyond the tolerance, so its duty is not 0 (R172, R173). -/
theorem Pac.sample_motionWf {p : Params} {r : Pac} {e : Int} (hp : p.Wf) (hc : r.ctlState = .seek) :
    (r.sample p e).MotionWf p := by
  rcases Pac.sample_cases p e r with ⟨-, h⟩ | ⟨-, -, h⟩ | ⟨-, -, -, h⟩ | ⟨-, -, herr, h⟩ <;> rw [h]
  · exact r.seekEnd_motionWf _
  · exact r.seekEnd_motionWf _
  · exact r.seekEnd_motionWf _
  · have hpos : 1 ≤ seekDutyOf p (e - r.target).natAbs := seekDutyOf_pos hp (by omega)
    have hle := seekDutyOf_le hp (e - r.target).natAbs
    simp only [Pac.motionWf_iff, Pac.MotionRule, hc, dutyBits_toNat hle]
    exact ⟨hpos, hle⟩

theorem Pac.drive_motionWf {p : Params} {r : Pac} (hr : r.MotionWf p) (hc : r.ctlState = .seek) :
    (r.drive p).MotionWf p := by
  rcases Pac.drive_cases p r with ⟨-, h⟩ | ⟨-, -, h⟩ | ⟨-, -, h⟩ <;> rw [h]
  · exact r.seekEnd_motionWf _
  · simp [Pac.motionWf_iff, Pac.MotionRule, hc]
  · exact { hr with }

theorem Pac.stop_motionWf {p : Params} {r : Pac} (hr : r.MotionWf p) (hc : r.ctlState = .seek) (hs : r.sub = .third) :
    (r.stop p).MotionWf p := by
  rcases Pac.stop_cases p r with ⟨-, h⟩ | ⟨-, -, h⟩ | ⟨-, -, h⟩ <;> rw [h]
  · exact r.seekEnd_motionWf _
  · simpa [Pac.motionWf_iff, Pac.MotionRule, hc] using hr.stop hc hs
  · exact { hr with }

theorem Pac.tick_motionWf {p : Params} {r : Pac} {e : Int} (hp : p.Wf) (hr : r.MotionWf p) :
    (r.tick p e).MotionWf p := by
  rcases Pac.tick_cases p e r with ⟨-, h⟩ | ⟨hc, -, h⟩ | ⟨hc, -, h⟩ | ⟨hc, -, h⟩ | ⟨hc, -, h⟩ | ⟨hc, hs, h⟩ <;> rw [h]
  · exact hr
  · exact Pac.sweep_motionWf hr hc
  · exact Pac.settle_motionWf hr hc
  · exact Pac.sample_motionWf hp hc
  · exact Pac.drive_motionWf hr hc
  · exact Pac.stop_motionWf hr hc hs

theorem Pac.reset_motionWf (p : Params) : Pac.reset.MotionWf p :=
  Pac.motionWf_of_idle (.inl rfl) rfl

/-- Settles O13, operation by operation. -/
theorem stepKeepsMotionRules : Obligations.StepKeepsMotionRules := by
  refine ⟨fun s t hp hs h => ?_, Pac.reset_motionWf _⟩
  obtain ⟨-, -, -, -, hcfg⟩ := step_sameWorld h
  rw [hcfg]
  exact step_pac_keeps (P := Pac.MotionWf s.cfg) h (Pac.reset_motionWf _) hs (Pac.calibrate_motionWf _ _)
    (fun _ _ _ => Pac.gotoAngle_motionWf hs) (Pac.tick_motionWf hp hs)

/-! ### The calibration registers -/

/-- `ENC_MIN`, `ENC_MAX` and `ENC_CENTER` are as they were. -/
def SameCalibration (r r' : Pac) : Prop := r'.encMin = r.encMin ∧ r'.encMax = r.encMax ∧ r'.encCenter = r.encCenter

theorem SameCalibration.refl (r : Pac) : SameCalibration r r := ⟨rfl, rfl, rfl⟩

theorem gotoAngle_sameCalibration {p : Params} {r r' : Pac} {a : Half} {d : Byte} (h : r.gotoAngle p a d = some r') :
    SameCalibration r r' := by
  rcases Pac.gotoAngle_cases p a d r with ⟨-, h'⟩ | ⟨-, h'⟩ |
      ⟨-, h'⟩ <;> cases h.symm.trans h' <;> exact ⟨rfl, rfl, rfl⟩

theorem sample_sameCalibration (p : Params) (e : Int) (r : Pac) : SameCalibration r (r.sample p e) := by
  rcases Pac.sample_cases p e r with ⟨-, h⟩ | ⟨-, -, h⟩ | ⟨-, -, -, h⟩ |
      ⟨-, -, -, h⟩ <;> rw [h] <;> exact ⟨rfl, rfl, rfl⟩

theorem settle_sameCalibration (p : Params) (r : Pac) : SameCalibration r (r.settle p) := by
  rcases Pac.settle_cases p r with ⟨-, h⟩ | ⟨-, h⟩ <;> rw [h] <;> exact ⟨rfl, rfl, rfl⟩

theorem drive_sameCalibration (p : Params) (r : Pac) : SameCalibration r (r.drive p) := by
  rcases Pac.drive_cases p r with ⟨-, h⟩ | ⟨-, -, h⟩ | ⟨-, -, h⟩ <;> rw [h] <;> exact ⟨rfl, rfl, rfl⟩

theorem stop_sameCalibration (p : Params) (r : Pac) : SameCalibration r (r.stop p) := by
  rcases Pac.stop_cases p r with ⟨-, h⟩ | ⟨-, -, h⟩ | ⟨-, -, h⟩ <;> rw [h] <;> exact ⟨rfl, rfl, rfl⟩

/-- A TICK writes the calibration registers only where a sweep finds its limit (R167). -/
theorem tick_sameCalibration_or_limitFound (p : Params) (e : Int) (r : Pac) :
    SameCalibration r (r.tick p e) ∨
    (r.ctlState = .calib ∧ (r.sub = .first ∨ r.sub = .third) ∧ r.tick p e = r.limitFound p e) := by
  rcases Pac.tick_cases p e r with ⟨-, h⟩ | ⟨hc, hs, h⟩ | ⟨-, -, h⟩ | ⟨-, -, h⟩ | ⟨-, -, h⟩ | ⟨-, -, h⟩ <;> rw [h]
  · exact .inl (.refl r)
  · rcases Pac.sweep_cases p e r with ⟨-, h⟩ | ⟨-, -, h⟩ | ⟨-, -, h⟩ <;> rw [h]
    · exact .inl ⟨rfl, rfl, rfl⟩
    · exact .inr ⟨hc, hs, rfl⟩
    · exact .inl ⟨rfl, rfl, rfl⟩
  · exact .inl (settle_sameCalibration p r)
  · exact .inl (sample_sameCalibration p e r)
  · exact .inl (drive_sameCalibration p r)
  · exact .inl (stop_sameCalibration p r)

/-- And so a step, resets apart. -/
theorem step_sameCalibration_or_limitFound {s t : State} (hrst : s.nextDrive.rst = false) (h : step s = .next t) :
    SameCalibration s.pac t.pac ∨
    (s.pac.ctlState = .calib ∧ (s.pac.sub = .first ∨ s.pac.sub = .third) ∧ s.nextDrive.tick = true ∧
      t.pac = s.pac.limitFound s.cfg t.port.encPos) := by
  rcases step_pac h with ⟨hr, -⟩ | ⟨-, -, -, ht⟩ | ⟨-, -, ht⟩ | ⟨-, -, -, -, a, d, -, ht⟩ | ⟨-, -, htick, ht⟩ |
      ⟨-, -, -, ht⟩
  · rw [hrst] at hr
    cases hr
  · exact .inl (ht ▸ ⟨rfl, rfl, rfl⟩)
  · exact .inl (ht ▸ .refl _)
  · exact .inl (gotoAngle_sameCalibration ht)
  · rcases tick_sameCalibration_or_limitFound s.cfg t.port.encPos s.pac with hsame | ⟨hc, hs, hl⟩
    · exact .inl (ht ▸ hsame)
    · exact .inr ⟨hc, hs, htick, ht.trans hl⟩
  · exact .inl (ht ▸ .refl _)

/-- Settles O15: the two limits LIMIT_FOUND records (R167). -/
theorem calibrationRegistersHaveOneWriter : Obligations.CalibrationRegistersHaveOneWriter := by
  intro s t hrst h
  rcases step_sameCalibration_or_limitFound hrst h with ⟨hmin, hmax, hcenter⟩ | ⟨hc, hs | hs, htick, ht⟩
  · exact ⟨fun hne => absurd hmin hne, fun hne => absurd hne (by simp [hmax, hcenter])⟩
  · rw [Pac.limitFound_first hs] at ht
    rw [ht]
    exact ⟨fun _ => ⟨hc, hs, htick, rfl, rfl⟩, fun hne => absurd hne (by simp)⟩
  · rw [Pac.limitFound_third hs] at ht
    rw [ht]
    exact ⟨fun hne => absurd rfl hne, fun _ => ⟨hc, hs, htick, rfl, rfl⟩⟩

end Sys2Proof.Machine
end

section
/-! The top-level step (`spec/10_state.md` R36 to R41, R45): what each operation leaves on the one-step outputs and in the
registers, which operation a step is, and what is not served. -/

namespace Sys2Proof.Machine

open Sys2Proof.Config

/-! ### The one-step outputs (R36, R38) -/

theorem commandStages_decAck {c : Command} {b : FrameBody} {s t : State} (hi : s.pac.Idle)
    (h : commandStages c b s = .next t) : t.strobes.decAck = true ∧ t.strobes.calAck = false := by
  rcases commandStages_cases c b hi with ⟨-, code, -, h'⟩ | ⟨-, -, h'⟩ | ⟨-, -, call, r, -, h'⟩
  all_goals
    cases h.symm.trans h'
    exact ⟨rfl, rfl⟩

/-- A DECODE of an idle block always acknowledges, whatever the frame. -/
theorem execDecode_decAck {s t : State} (hi : s.pac.Idle) (h : execDecode s = .next t) :
    t.strobes.decAck = true ∧ t.strobes.calAck = false := by
  rcases execDecode_cases hi with ⟨code, -, hfail⟩ | ⟨-, -, -, -, c, -, hrun, -⟩
  · cases h.symm.trans hfail
    exact ⟨rfl, rfl⟩
  · exact commandStages_decAck hi (hrun.symm.trans h)

/-- The step performs CALIBRATE (R40). -/
def State.ServesCalibrate (s : State) : Prop := s.nextDrive.rst = false ∧ s.pac.Idle ∧ s.nextDrive.calReq = true

/-- The step performs DECODE (R40). -/
def State.ServesDecode (s : State) : Prop :=
  s.nextDrive.rst = false ∧ s.pac.Idle ∧ s.nextDrive.calReq = false ∧ s.nextDrive.decReq = true

/-- The one-step outputs after a step: those of CALIBRATE, those of a DECODE, or low. -/
theorem step_strobes {s t : State} (h : step s = .next t) :
    (s.ServesCalibrate ∧ t.strobes = { Strobes.low with calAck := true }) ∨
    (s.ServesDecode ∧ t.strobes.decAck = true ∧ t.strobes.calAck = false) ∨
    (¬ s.ServesCalibrate ∧ ¬ s.ServesDecode ∧ t.strobes = Strobes.low) := by
  unfold State.ServesCalibrate State.ServesDecode
  rcases step_cases s with ⟨hr, h'⟩ | ⟨hr, hi, hc, h'⟩ | ⟨hr, hi, hc, hd, h'⟩ | ⟨hr, hi, -, h'⟩ | ⟨hr, hidle, -, h'⟩ <;>
    rw [h] at h'
  · cases h'
    exact .inr (.inr ⟨by simp [hr], by simp [hr], rfl⟩)
  · cases h'.trans (execCalibrate_of_idle (s := s.latch) hi)
    exact .inl ⟨⟨hr, hi, hc⟩, rfl⟩
  · exact .inr (.inl ⟨⟨hr, hi, hc, hd⟩, execDecode_decAck (s := s.latch) hi h'.symm⟩)
  · cases h'
    exact .inr (.inr ⟨fun ⟨_, hidle, _⟩ => hi hidle, fun ⟨_, hidle, _⟩ => hi hidle, rfl⟩)
  · cases h'
    refine .inr (.inr ⟨?_, ?_, rfl⟩)
    · rintro ⟨-, hi, hc⟩
      simp [(hidle hi).1] at hc
    · rintro ⟨-, hi, -, hd⟩
      simp [(hidle hi).2] at hd

theorem step_calAck_iff {s t : State} (h : step s = .next t) : t.strobes.calAck = true ↔ s.ServesCalibrate := by
  rcases step_strobes h with ⟨hs, ht⟩ | ⟨⟨-, -, hc, -⟩, -, ht⟩ | ⟨hs, -, ht⟩
  · simp [ht, hs]
  · simp [ht, State.ServesCalibrate, hc]
  · simp [ht, hs, Strobes.low]

theorem step_decAck_iff {s t : State} (h : step s = .next t) : t.strobes.decAck = true ↔ s.ServesDecode := by
  rcases step_strobes h with ⟨⟨-, -, hc⟩, ht⟩ | ⟨hs, ht, -⟩ | ⟨-, hs, ht⟩
  · simp [ht, State.ServesDecode, hc, Strobes.low]
  · simp [ht, hs]
  · simp [ht, hs, Strobes.low]

/-- Without `result_valid` there is no result code and no call. -/
theorem step_result_of_no_decAck {s t : State} (h : step s = .next t) (hd : t.strobes.decAck = false) :
    t.strobes.resultCode = .ok ∧ t.strobes.call = none := by
  rcases step_strobes h with ⟨-, ht⟩ | ⟨-, ht, -⟩ | ⟨-, -, ht⟩
  · simp [ht, Strobes.low]
  · rw [ht] at hd
    cases hd
  · simp [ht, Strobes.low]

/-! ### ENCODE's outputs (R40, R111) -/

theorem step_encOut {s t : State} (h : step s = .next t) : t.encFrame = s.latch.encFrame ∧ t.encCk = s.latch.encCk := by
  rcases step_cases s with ⟨-, h'⟩ | ⟨-, hi, -, h'⟩ | ⟨-, -, -, -, h'⟩ | ⟨-, -, -, h'⟩ | ⟨-, -, -, h'⟩ <;> rw [h] at h'
  · cases h'
    exact ⟨rfl, rfl⟩
  · cases h'.trans (execCalibrate_of_idle (s := s.latch) hi)
    exact ⟨rfl, rfl⟩
  · obtain ⟨-, hframe, hck, -⟩ := execDecode_sameWorld h'.symm
    exact ⟨hframe, hck⟩
  · cases h'
    exact ⟨rfl, rfl⟩
  · cases h'
    exact ⟨rfl, rfl⟩

/-- After every step the outputs of ENCODE already are its answer to the sampled inputs. -/
theorem step_followEncode {s t : State} (h : step s = .next t) : t.followEncode = t := by
  obtain ⟨hframe, hck⟩ := step_encOut h
  obtain ⟨-, hport, -, -, hcfg⟩ := step_sameWorld h
  have hout : t.followEncode = t.setEncOut s.latch.encFrame s.latch.encCk := by
    simp [State.followEncode, hport, hcfg]
  rw [hout, ← hframe, ← hck]
  rfl

/-! ### Which operation a step is (R40) -/

theorem step_of_rst {s : State} (hr : s.nextDrive.rst = true) : step s = .next s.latch.resetRegs := by
  simp [step_eq, hr]

theorem step_of_calReq {s : State} (hr : s.nextDrive.rst = false) (hi : s.pac.Idle) (hc : s.nextDrive.calReq = true) :
    step s = execCalibrate s.latch := by
  simp [step_eq, hr, Pac.busy_eq_false.2 hi, hc]

theorem step_of_decReq {s : State} (hr : s.nextDrive.rst = false) (hi : s.pac.Idle) (hc : s.nextDrive.calReq = false)
    (hd : s.nextDrive.decReq = true) : step s = execDecode s.latch := by
  simp [step_eq, hr, Pac.busy_eq_false.2 hi, hc, hd]

theorem step_of_idle {s : State} (hr : s.nextDrive.rst = false) (hi : s.pac.Idle) (hc : s.nextDrive.calReq = false)
    (hd : s.nextDrive.decReq = false) : step s = .next s.latch := by
  simp [step_eq, hr, Pac.busy_eq_false.2 hi, hc, hd]

/-- A busy block looks at `rst` and `tick` only. -/
theorem step_of_busy {s : State} (hi : ¬ s.pac.Idle) :
    step s = if s.nextDrive.rst then .next s.latch.resetRegs
      else if s.nextDrive.tick then execTick s.latch else .next s.latch := by
  simp [step_eq, Pac.busy_eq_true.2 (Pac.not_idle.1 hi)]

/-- Narrowing changes a value by a multiple of the register's range (`spec/00_scope.md` R10). -/
theorem dvd_narrowS_sub (w : Nat) (v : Int) : (2 ^ w : Int) ∣ narrowS w v - v := by
  have h : ((2 ^ w : Nat) : Int) ∣ Int.bmod v (2 ^ w) - v := Int.dvd_bmod_sub_self
  exact_mod_cast h

/-- Settles O4. -/
theorem stepChoosesOneOperation : Obligations.StepChoosesOneOperation := by
  intro s
  refine ⟨⟨rfl, rfl, rfl, rfl, rfl, rfl, rfl, rfl⟩, ⟨rfl, rfl, rfl, rfl, rfl, rfl, rfl⟩, fun hp => ?_, step_of_rst,
    step_of_calReq, step_of_decReq, step_of_idle, fun hr hi ht => ?_, fun hr hi ht => ?_, fun t h => ?_⟩
  · exact ⟨narrowS_fits _ (encW_pos hp), dvd_narrowS_sub _ _, narrowS_of_fits (encW_pos hp)⟩
  · simp [step_of_busy hi, hr, ht, exec]
  · simp [step_of_busy hi, hr, ht]
  · exact ⟨step_calAck_iff h, step_decAck_iff h, congrArg _ (step_followEncode h)⟩

/-- Settles O7. -/
theorem stepWithRstResetsEveryRegister : Obligations.StepWithRstResetsEveryRegister :=
  fun _ => step_of_rst

/-! ### The frame a DECODE step serves (R41, R114) -/

/-- DECODE of a presented frame whose bytes decode is the decoded command. -/
theorem execDecode_of_decodeBytes {s : State} {i : Instr} (hi : s.pac.Idle) (hp : s.port.framePresent = true)
    (h : decodeBytes s.fb.bytes = .ok i) : execDecode s = exec i s := by
  obtain ⟨c, b, rfl, hbytes⟩ := decodeBytes_eq_ok.1 h
  have hframe : s.fb.frame = commandFrame c b := by
    simpa [hbytes] using (frameOfBytes_bytes s.fb).symm
  have hsel : select s.fb.frame = .command c := by simp [hframe]
  calc execDecode s = decodeStages s.fb.frame s := by simp [execDecode_of_idle hi, hp]
    _ = runCommand c s.fb.frame.body s := by simp [decodeStages, hsel]
    _ = exec (c.instr b) s := by rw [hframe, exec_instr]; rfl

/-- Settles O5. -/
theorem stepRunsDecodedFrame : Obligations.StepRunsDecodedFrame := by
  intro s i hr hi hc hd hp h
  rw [step_of_decReq hr hi hc hd]
  exact execDecode_of_decodeBytes (s := s.latch) hi hp h

/-- The first step of a run that completes. -/
theorem step_of_run_succ {M : Host.Core} {k : Nat} {t u : M.State} (h : M.run (k + 1) t = .next u) :
    ∃ t', M.step t = .next t' ∧ M.run k t' = .next u := by
  unfold Host.Core.run at h
  split at h
  next t' ht => exact ⟨t', ht, h⟩
  next => cases h
  next => cases h

/-- A step in which `HOST` holds its frame keeps what it presented (R41; `spec/20_memory.md` R58). -/
theorem step_holdsFrame {present : Bool} {t t' : State} {x : Drive} {xs : List Drive} (hinbox : t.inbox = x :: xs)
    (hx : HoldsFrame present x) (h : step t = .next t') :
    t'.fb = t.fb ∧ t'.port.framePresent = present ∧ t'.inbox = xs := by
  obtain ⟨-, hpresent, hstores⟩ := hx
  obtain ⟨hfb, hport, htail, -, -⟩ := step_sameWorld h
  have hdrive := State.nextDrive_of_cons hinbox
  exact ⟨by simp [hfb, hdrive, hstores], by simp [hport, hdrive, hpresent], by simp [htail, hinbox]⟩

/-- And so any number of them. -/
theorem run_holdsFrame {present : Bool} (ds : List Drive) {t u : State} {rest : List Drive}
    (hinbox : t.inbox = ds ++ rest) (hds : ∀ x ∈ ds, HoldsFrame present x)
    (h : Sys2Proof.core.run ds.length t = .next u) : u.fb = t.fb ∧ u.inbox = rest := by
  induction ds generalizing t with
  | nil =>
    cases h
    exact ⟨rfl, hinbox⟩
  | cons x xs ih =>
    obtain ⟨t', hstep, hrun⟩ := step_of_run_succ h
    obtain ⟨hfb, -, hinbox'⟩ := step_holdsFrame hinbox (hds x (by simp)) hstep
    obtain ⟨hfb', hrest⟩ := ih hinbox' (fun y hy => hds y (by simp [hy])) hrun
    exact ⟨hfb'.trans hfb, hrest⟩

/-- Settles O8, by induction over the steps HOST holds the frame. -/
theorem heldFrameIsServedWhenIdle : Obligations.HeldFrameIsServedWhenIdle := by
  intro t u ds d rest hinbox hds hd hrun hidle hrst hcal
  obtain ⟨hreq, hpresent, hstores⟩ := hd
  obtain ⟨hfb, hrest⟩ := run_holdsFrame ds hinbox hds hrun
  have hdrive : u.nextDrive = d := State.nextDrive_of_cons hrest
  have hstep : step u = execDecode u.latch :=
    step_of_decReq (hdrive ▸ hrst) hidle (hdrive ▸ hcal) (hdrive ▸ hreq)
  obtain ⟨v, hv⟩ := execDecode_next u.latch
  exact ⟨hstep, by simp [hdrive, hstores, hfb], by simp [hdrive, hpresent], v, hstep.trans hv,
    (execDecode_decAck (s := u.latch) hidle hv).1⟩

/-! ### What is not served (R40, R41) -/

/-- The registers after a step of a busy block: a function of `rst`, `tick` and `enc_pos` alone. -/
def Pac.afterBusyStep (p : Params) (rst tick : Bool) (encPos : Int) (r : Pac) : Pac :=
  if rst then Pac.reset else if tick then r.tick p (narrowS p.encW encPos) else r

/-- What a step of a busy block leaves. -/
theorem step_busy_frame {s t : State} (hi : ¬ s.pac.Idle) (h : step s = .next t) :
    t.records = s.records ∧ t.strobes = Strobes.low ∧
      t.pac = s.pac.afterBusyStep s.cfg s.nextDrive.rst s.nextDrive.tick s.nextDrive.encPos := by
  rw [step_of_busy hi] at h
  unfold Pac.afterBusyStep
  split at h
  next hr =>
    cases h
    exact ⟨rfl, rfl, (if_pos hr).symm⟩
  next hr =>
    rw [if_neg hr]
    split at h
    next ht =>
      cases h
      exact ⟨rfl, rfl, (if_pos ht).symm⟩
    next ht =>
      cases h
      exact ⟨rfl, rfl, (if_neg ht).symm⟩

/-- Settles O9: the registers are a function of the inputs the two steps share. -/
theorem requestWhileBusyIsLost : Obligations.RequestWhileBusyIsLost := by
  intro s d d' ds t t' hi hrst htick hpos h h'
  obtain ⟨hrecords, hlow, hpac⟩ := step_busy_frame (s := { s with inbox := d :: ds }) hi h
  obtain ⟨hrecords', hlow', hpac'⟩ := step_busy_frame (s := { s with inbox := d' :: ds }) hi h'
  have hsame : t'.pac = t.pac := by
    calc t'.pac = s.pac.afterBusyStep s.cfg d'.rst d'.tick d'.encPos := hpac'
      _ = s.pac.afterBusyStep s.cfg d.rst d.tick d.encPos := by rw [hrst, htick, hpos]
      _ = t.pac := hpac.symm
  exact ⟨hsame, hrecords'.trans hrecords.symm, hlow, hlow'⟩

/-- Settles O38. -/
theorem unservedRequestsChangeNothing : Obligations.UnservedRequestsChangeNothing := by
  intro s
  refine ⟨fun hbusy => ?_, fun hidle => ?_⟩
  · have hi : ¬ s.pac.Idle := Pac.not_idle.2 hbusy
    refine ⟨execDecode_of_busy hi, execCalibrate_of_busy hi, fun c b => ?_, fun a d => ?_⟩
    · rw [exec_instr, runCommand_eq]
      exact whenIdle_of_busy hi
    · rcases Pac.gotoAngle_cases s.cfg a d s.pac with ⟨hc, -⟩ | ⟨hc, -⟩ | ⟨-, hnone⟩
      · exact absurd (.inr hc) hi
      · exact absurd (.inl hc) hi
      · simp [exec, execGotoangle, hnone]
  · show execTick s = _
    rw [execTick_eq, Pac.tick_of_idle hidle]
    rfl

/-! ### Which operations write the registers (R20) -/

/-- A command writes the registers through the angle request of MOTORANGLE only (R133). -/
theorem commandStages_pac {c : Command} {b : FrameBody} {s t : State} (hi : s.pac.Idle)
    (h : commandStages c b s = .next t) :
    t.pac = s.pac ∨ c = .motorangle ∧ s.pac.gotoAngle s.cfg (angleWord b) b.p3 = some t.pac := by
  by_cases hc : c = .motorangle
  · subst hc
    rcases motorangleStages_cases b hi with ⟨-, h'⟩ | ⟨-, r, hr, h'⟩ <;> cases h.symm.trans h'
    · exact .inl rfl
    · exact .inr ⟨rfl, hr⟩
  · rcases commandStages_cases c b hi with ⟨-, code, -, h'⟩ | ⟨-, -, h'⟩ | ⟨-, -, call, r, hr, h'⟩ <;>
      cases h.symm.trans h'
    · exact .inl rfl
    · exact .inl rfl
    · exact .inl (hr hc)

theorem exec_instr_pac {c : Command} {b : FrameBody} {s t : State} (h : exec (c.instr b) s = .next t) :
    t.pac = s.pac ∨ c = .motorangle ∧ s.pac.gotoAngle s.cfg (angleWord b) b.p3 = some t.pac := by
  rw [exec_instr, runCommand_eq] at h
  by_cases hi : s.pac.Idle
  · rw [whenIdle_of_idle hi] at h
    by_cases hck : ck16 s.cfg (coveredBytes c.id b) = b.cks
    · exact commandStages_pac hi ((checksumStage_of_eq hck).symm.trans h)
    · cases (checksumStage_of_ne hck).symm.trans h
      exact .inl rfl
  · cases (whenIdle_of_busy hi).symm.trans h
    exact .inl rfl

theorem exec_instr_pac_of_ne {c : Command} {b : FrameBody} {s t : State} (hc : c ≠ .motorangle)
    (h : exec (c.instr b) s = .next t) : t.pac = s.pac :=
  (exec_instr_pac h).resolve_right fun ⟨hc', _⟩ => hc hc'

/-- A DECODE writes the registers through a frame with id 2 only. -/
theorem execDecode_pac_or_id {s t : State} (h : execDecode s = .next t) :
    t.pac = s.pac ∨ s.fb.frame.id = 2 ∧ ∃ a d, s.pac.gotoAngle s.cfg a d = some t.pac := by
  by_cases hi : s.pac.Idle
  · rcases execDecode_cases hi with ⟨code, -, hfail⟩ | ⟨-, -, -, -, c, hid, hrun, -⟩
    · cases h.symm.trans hfail
      exact .inl rfl
    · rcases commandStages_pac hi (hrun.symm.trans h) with hsame | ⟨rfl, hgoto⟩
      · exact .inl hsame
      · exact .inr ⟨hid, _, _, hgoto⟩
  · cases h.symm.trans (execDecode_of_busy hi)
    exact .inl rfl

/-- Every register but those of an angle request (R160, R161) is as it was. -/
def SteersOnly (r r' : Pac) : Prop :=
  r' = { r with
    target := r'.target, ctlState := r'.ctlState, sub := r'.sub, pace := r'.pace, tmo := r'.tmo,
    ctlStatus := r'.ctlStatus }

theorem SteersOnly.of_eq {r r' : Pac} (h : r' = r) : SteersOnly r r' := by
  subst h
  rfl

theorem gotoAngle_steersOnly {p : Params} {r r' : Pac} {a : Half} {d : Byte} (h : r.gotoAngle p a d = some r') :
    SteersOnly r r' := by
  rcases Pac.gotoAngle_cases p a d r with ⟨-, h'⟩ | ⟨-, h'⟩ | ⟨-, h'⟩ <;> cases h.symm.trans h' <;> rfl

theorem execGotoangle_pac {a : Half} {d : Byte} {s t : State} (h : execGotoangle a d s = .next t) :
    s.pac.gotoAngle s.cfg a d = some t.pac := by
  unfold execGotoangle at h
  split at h
  next r hr =>
    cases h
    exact hr
  next => cases h

/-- Settles O12, from what each operation can do to the registers. -/
theorem onlyControllerOperationsTouchRegisters : Obligations.OnlyControllerOperationsTouchRegisters := by
  intro s t
  refine ⟨fun b => exec_instr_pac_of_ne (c := .motor) (by simp), fun b => exec_instr_pac_of_ne (c := .carhorn) (by simp),
    fun b => exec_instr_pac_of_ne (c := .carlight) (by simp),
    fun b => exec_instr_pac_of_ne (c := .carconfirmation) (by simp), fun l h => ?_, fun h => ?_, fun h hid => ?_, ?_⟩
  · cases h
    rfl
  · cases h
    rfl
  · exact (execDecode_pac_or_id h).resolve_right fun ⟨hid', _⟩ => hid hid'
  · rintro (⟨b, h⟩ | ⟨a, d, h⟩ | h)
    · rcases exec_instr_pac (c := .motorangle) h with hsame | ⟨-, hgoto⟩
      · exact SteersOnly.of_eq hsame
      · exact gotoAngle_steersOnly hgoto
    · exact gotoAngle_steersOnly (execGotoangle_pac h)
    · rcases execDecode_pac_or_id h with hsame | ⟨-, a, d, hgoto⟩
      · exact SteersOnly.of_eq hsame
      · exact gotoAngle_steersOnly hgoto

/-! ### The port table (R38) -/

/-- The call ports without a call. -/
theorem outputs_of_no_call {s : State} (h : s.strobes.call = none) :
    s.outputs.speedSet = none ∧ s.outputs.angleSet = none ∧ s.outputs.horn = none ∧ s.outputs.light = none := by
  simp [State.outputs, h]

/-- With a call each call port shows its own part of it. -/
theorem outputs_of_call {s : State} {r : CallRecord} (h : s.strobes.call = some r) :
    s.outputs.speedSet = r.speedSet? ∧ s.outputs.angleSet = r.angleSet? ∧ s.outputs.horn = r.horn? ∧
      s.outputs.light = r.light? := by
  simp [State.outputs, h]

/-- Settles O16: each port as the table names it; at rest by the one-step outputs a step can leave. -/
theorem outputPortsFollowState : Obligations.OutputPortsFollowState := by
  intro s
  refine ⟨⟨Pac.busy_eq_true, rfl, Pac.calibrated_eq_true, rfl⟩, ⟨rfl, rfl, rfl, rfl⟩, ?_, ?_, ?_, ⟨rfl, ?_⟩,
    outputs_of_no_call, ?_, ?_, ?_, ?_, fun t h hvalid => ?_⟩
  · simp +contextual [State.outputs, CtlState.code]
  · simp +contextual [State.outputs, CtlStatus.code]
  · simp +contextual [State.outputs, ResultCode.code]
  · cases hdir : s.pac.actDir <;> simp [State.outputs, hdir]
  · intro m p d hcall
    obtain ⟨hspeed, hangle, hhorn, hlight⟩ := outputs_of_call hcall
    exact ⟨hspeed, hangle, hhorn, hlight⟩
  · intro a d hcall
    obtain ⟨hspeed, hangle, hhorn, hlight⟩ := outputs_of_call hcall
    exact ⟨hangle, hspeed, hhorn, hlight⟩
  · intro ms hcall
    obtain ⟨hspeed, hangle, hhorn, hlight⟩ := outputs_of_call hcall
    exact ⟨hhorn, hspeed, hangle, hlight⟩
  · intro c o hcall
    obtain ⟨hspeed, hangle, hhorn, hlight⟩ := outputs_of_call hcall
    exact ⟨hlight, hspeed, hangle, hhorn⟩
  · obtain ⟨hcode, hcall⟩ := step_result_of_no_decAck h hvalid
    exact ⟨congrArg ResultCode.code hcode, outputs_of_no_call hcall⟩

end Sys2Proof.Machine
end

section
/-! The frame buffer over a step (`spec/20_memory.md` R50, R56): `HOST`'s stores are made at the latch, and no operation
writes the buffer after it. -/

namespace Sys2Proof.Machine

theorem Memory.setAll_append (m : Memory) (l l' : List (Fin 12 × Byte)) :
    m.setAll (l ++ l') = (m.setAll l).setAll l' :=
  List.foldl_append

/-- Of several stores at one address the last one stands. -/
theorem Memory.get_setAll_last {m : Memory} (hm : m.wf) (l : List (Fin 12 × Byte)) (w : Fin 12 × Byte)
    {l' : List (Fin 12 × Byte)} (hlast : ∀ w' ∈ l', w'.1 ≠ w.1) :
    (m.setAll (l ++ w :: l')).get w.1.val = w.2 := by
  rw [Memory.setAll_append, Memory.setAll_cons,
    Memory.get_setAll_other fun w' hw' => Fin.val_ne_of_ne (hlast w' hw')]
  exact Memory.get_set_same (Memory.setAll_wf l hm)

theorem step_fb {s t : State} (h : step s = .next t) : t.fb = s.fb.setAll s.nextDrive.fbWrites := by
  obtain ⟨hfb, -⟩ := step_sameWorld h
  exact hfb

/-- Settles O10: the buffer after the step is the buffer before it with `HOST`'s stores made in order. -/
theorem stepStoresOnlyHostBytes : Obligations.StepStoresOnlyHostBytes := by
  intro s t hwf hstep
  rw [step_fb hstep]
  refine ⟨fun a => Memory.get_setAll_other, fun l w l' hsplit hlast => ?_⟩
  rw [hsplit]
  exact Memory.get_setAll_last hwf l w hlast

end Sys2Proof.Machine
end

section
/-! Encoding (`spec/30_encoding.md`): the encoder and the decoder are inverse on commands (R71, R72), the opcode table's
match and mask are read off the fields of a frame's word (R73), a request vector selects one operation (R85), a placed word
is what the next step runs, and what a command does not look at has no effect (R75, R82). -/

namespace Sys2Proof

open Sys2Proof.Config Sys2Proof.Machine

/-! ### Encode and decode of the operations (R71, R72, R85) -/

/-- Every wire command is encoded as its frame. -/
@[simp] theorem encode_instr (c : Command) (b : FrameBody) :
    encode (c.instr b) = some (.frame (frameToBytes (commandFrame c b))) := by
  cases c <;> rfl

/-- A command's frame decodes to the command. -/
theorem decodeBytes_commandFrame (c : Command) (b : FrameBody) :
    decodeBytes (frameToBytes (commandFrame c b)) = .ok (c.instr b) :=
  decodeBytes_eq_ok.2 ⟨c, b, rfl, rfl⟩

theorem decode_of_encode_instr {c : Command} {b : FrameBody} {e : Encoding} (h : encode (c.instr b) = some e) :
    decode e = .ok (c.instr b) := by
  obtain rfl : .frame (frameToBytes (commandFrame c b)) = e := by simpa using h
  exact decodeBytes_commandFrame c b

/-- Settles O17: a wire command by its frame, a port operation by its vector. -/
theorem encodedInstructionDecodesToItself : Obligations.EncodedInstructionDecodesToItself := by
  intro i e h
  cases i with
  | motor b => exact decode_of_encode_instr (c := .motor) h
  | motorangle b => exact decode_of_encode_instr (c := .motorangle) h
  | carhorn b => exact decode_of_encode_instr (c := .carhorn) h
  | carlight b => exact decode_of_encode_instr (c := .carlight) h
  | carconfirmation b => exact decode_of_encode_instr (c := .carconfirmation) h
  | cksum | gotoangle => cases h
  | encode | decode | calibrate | tick => cases h; rfl

/-- Settles O18: bytes that decode are the frame of a command, and that frame is the command's encoding. -/
theorem decodedBytesEncodeBack : Obligations.DecodedBytesEncodeBack := by
  intro l i h
  obtain ⟨c, b, rfl, rfl⟩ := decodeBytes_eq_ok.1 h
  exact encode_instr c b

/-! ### The opcode table's match and mask (R73) -/

/-- The fields of a u96 value (R71). -/
def wordToFrame (F : BitVec 96) : FrameView :=
  ⟨F.extractLsb' 0 16, F.extractLsb' 16 8,
    ⟨F.extractLsb' 24 8, F.extractLsb' 32 8, F.extractLsb' 40 8, F.extractLsb' 48 8, F.extractLsb' 56 8,
      F.extractLsb' 64 16⟩, F.extractLsb' 80 16⟩

/-- The fields of a u96 value make it up. -/
@[simp] theorem frameToWord_wordToFrame (F : BitVec 96) : frameToWord (wordToFrame F) = F := by
  apply BitVec.eq_of_getLsbD_eq
  intro i hi
  rw [frameToWord_getLsbD]
  simp only [wordToFrame, BitVec.getLsbD_extractLsb']
  split_ifs
  all_goals
    rw [decide_eq_true (by omega), Bool.true_and]
    congr 1
    omega

theorem frameToBytes_inj {v v' : FrameView} : frameToBytes v = frameToBytes v' ↔ v = v' :=
  ⟨fun h => by simpa using congrArg frameOfBytes h, congrArg _⟩

theorem frameToWord_inj {v v' : FrameView} : frameToWord v = frameToWord v' ↔ v = v' := by
  refine ⟨fun h => frameToBytes_inj.1 ?_, congrArg _⟩
  rw [← wordBytes_frameToWord, h, wordBytes_frameToWord]

/-- A body whose bits are all 0, as under the table's mask. -/
def zeroBody : FrameBody := ⟨0, 0, 0, 0, 0, 0⟩

/-- The bitwise and of two frames, field by field. -/
def FrameView.and (v v' : FrameView) : FrameView :=
  ⟨v.start &&& v'.start, v.id &&& v'.id,
    ⟨v.body.p0 &&& v'.body.p0, v.body.p1 &&& v'.body.p1, v.body.p2 &&& v'.body.p2, v.body.p3 &&& v'.body.p3,
      v.body.count &&& v'.body.count, v.body.cks &&& v'.body.cks⟩, v.stop &&& v'.stop⟩

theorem frameToWord_and (v v' : FrameView) : frameToWord v &&& frameToWord v' = frameToWord (v.and v') := by
  apply BitVec.eq_of_getLsbD_eq
  intro i hi
  rw [BitVec.getLsbD_and]
  simp only [frameToWord_getLsbD, FrameView.and, BitVec.getLsbD_and]
  split_ifs <;> rfl

/-- The table's mask keeps the fields `start`, `id`, `end` and clears the body. -/
theorem frameToWord_and_mask (v : FrameView) :
    frameToWord v &&& 0xFFFF00000000000000FFFFFF#96 = frameToWord { v with body := zeroBody } := by
  have hmask : 0xFFFF00000000000000FFFFFF#96 = frameToWord ⟨.allOnes 16, .allOnes 8, zeroBody, .allOnes 16⟩ := rfl
  rw [hmask, frameToWord_and]
  simp only [FrameView.and, zeroBody, BitVec.and_allOnes, BitVec.ofNat_eq_ofNat, BitVec.and_zero]

/-- The table's match of a command is the word of its frame with the body cleared. -/
theorem match_eq_frameToWord (c : Command) :
    (0x0D0A0000000000000000AA55#96 ||| (c.id.setWidth 96 <<< 16)) = frameToWord (commandFrame c zeroBody) := by
  cases c <;> rfl

/-- A table word of 96 bits decodes as its twelve bytes. -/
theorem decodeTableWord_eq_some {w : Nat} {i : Instr} :
    decodeTableWord 96 w = some i ↔ decodeBytes (wordBytes 12 w) = .ok i := by
  have hwide : ¬ 96 ≤ 8 := by omega
  simp only [decodeTableWord, if_neg hwide, Nat.reduceDiv]
  cases decodeBytes (wordBytes 12 w) <;> simp

/-- A frame's word decodes to a command exactly when the frame is the command's. -/
theorem decodeTableWord_frameToWord {v : FrameView} {c : Command} {b : FrameBody} :
    decodeTableWord 96 (frameToWord v).toNat = some (c.instr b) ↔ v = commandFrame c b := by
  rw [decodeTableWord_eq_some, wordBytes_frameToWord, decodeBytes_eq_ok]
  constructor
  · rintro ⟨c', b', hinstr, hbytes⟩
    obtain ⟨rfl, rfl⟩ := Command.instr_inj hinstr
    exact frameToBytes_inj.1 hbytes
  · rintro rfl
    exact ⟨c, b, rfl, rfl⟩

/-- A frame is a command's, with some body, exactly when it is so with the body cleared. -/
theorem exists_eq_commandFrame_iff {v : FrameView} {c : Command} :
    (∃ b, v = commandFrame c b) ↔ { v with body := zeroBody } = commandFrame c zeroBody := by
  constructor
  · rintro ⟨b, rfl⟩
    rfl
  · intro h
    exact ⟨v.body, congrArg (fun u : FrameView => { u with body := v.body }) h⟩

/-- Settles O19: either side says that the word's fields `start`, `id` and `end` are the command's. -/
theorem tableMaskSelectsCommand : Obligations.TableMaskSelectsCommand := by
  intro F c
  obtain ⟨v, rfl⟩ : ∃ v, F = frameToWord v := ⟨wordToFrame F, by simp⟩
  simp only [decodeTableWord_frameToWord]
  rw [frameToWord_and_mask, match_eq_frameToWord, frameToWord_inj]
  exact exists_eq_commandFrame_iff

/-! ### The request vector (R85) -/

/-- The decoder's choice by the inputs of the vector. -/
theorem decodeVector_vectorOf (r b t c d : Bool) :
    decodeVector (vectorOf r b t c d) =
      if r then .encode
      else if b then (if t then .tick else .encode)
      else if c then .calibrate
      else if d then .decode
      else .encode := by
  revert r b t c d
  decide

/-- Settles O20: each clause is a branch of the decoder's choice. -/
theorem requestVectorSelectsOperation : Obligations.RequestVectorSelectsOperation := by
  intro r b t c d
  simp only [decodeVector_vectorOf]
  refine ⟨rfl, rfl, rfl, rfl, rfl, rfl, ?_⟩
  rintro (rfl | rfl)
  · simp
  · cases r <;> cases t <;> simp

/-- Settles O21: the decoder evaluated on the spec's frames. -/
theorem sampleFramesDecode : Obligations.SampleFramesDecode :=
  ⟨rfl, rfl, rfl, rfl, rfl⟩

end Sys2Proof

namespace Sys2Proof.Machine

open Sys2Proof.Config

/-! ### A placed word (R73, R85) -/

/-- A request vector is made up of its bits. -/
theorem vectorOf_getLsbD (q : BitVec 5) :
    vectorOf (q.getLsbD 4) (q.getLsbD 3) (q.getLsbD 2) (q.getLsbD 1) (q.getLsbD 0) = q := by
  revert q
  decide

theorem CtlState.withBusy_code (b : Bool) (c : CtlState) : (c.withBusy b).code.getLsbD 0 = b := by
  cases b <;> cases c <;> rfl

/-- The next step of a block with a placed request vector samples that vector. -/
theorem requestVector_withFetchWord (s : State) (w : Nat) :
    (s.withFetchWord 8 w).latch.requestVector = BitVec.ofNat 5 w := by
  have hbusy : (s.withFetchWord 8 w).pac.busy = (BitVec.ofNat 5 w).getLsbD 3 := CtlState.withBusy_code _ _
  have hdrive : (s.withFetchWord 8 w).nextDrive = vectorDrive (BitVec.ofNat 5 w) := rfl
  simp only [State.requestVector, State.latch_port, State.latch_pac, Drive.levels_rst, Drive.levels_tick,
    Drive.levels_calReq, Drive.levels_decReq, hbusy, hdrive]
  exact vectorOf_getLsbD _

/-- A step that samples no `rst` runs what its request vector selects. -/
theorem step_of_not_rst {s : State} (hr : s.nextDrive.rst = false) :
    step s = exec (decodeVector s.latch.requestVector) s.latch := by
  simp [step, clocked, hr]

/-- Twelve bytes that `HOST` stores stand in the buffer in their order. -/
theorem Memory.bytes_setAll_storesOf {m : Memory} (h : m.wf) {l : List Byte} (hl : l.length = 12) :
    (m.setAll (storesOf l)).bytes = l := by
  apply List.ext_getElem
  · simp [Memory.bytes, hl]
  · intro k _ hk
    have hget := Memory.get_setAll_storesOf h l (hl ▸ hk)
    simpa [Memory.bytes, hk] using hget

theorem CtlState.withBusy_false_idle (c : CtlState) :
    c.withBusy false = .uncal ∨ c.withBusy false = .ready := by
  cases c <;> decide

/-- A frame's word is placed as a request to decode it. -/
theorem step_withFetchWord_frame {s : State} {i : Instr} {w : Nat} (hwf : s.fb.wf)
    (h : decodeBytes (wordBytes 12 w) = .ok i) :
    step (s.withFetchWord 96 w) = exec i (s.withFetchWord 96 w).latch := by
  have hidle : (s.withFetchWord 96 w).pac.Idle := CtlState.withBusy_false_idle _
  have hbytes : (s.withFetchWord 96 w).latch.fb.bytes = wordBytes 12 w :=
    Memory.bytes_setAll_storesOf hwf (by simp [wordBytes])
  exact stepRunsDecodedFrame _ i rfl hidle rfl rfl rfl (hbytes ▸ h)

/-- Settles O6: a frame's word through O5, a request vector through the vector the step samples. -/
theorem placedWordRunsNext : Obligations.PlacedWordRunsNext := by
  intro s i w
  refine ⟨fun hwf h => ?_, fun (hw : w < 2 ^ 4) h => ?_⟩
  · exact step_withFetchWord_frame hwf (decodeTableWord_eq_some.1 h)
  · have hi : decodeVector (BitVec.ofNat 5 w) = i := by
      simpa [decodeTableWord, show w < 32 by omega] using h
    have hr : (s.withFetchWord 8 w).nextDrive.rst = false := by
      show (BitVec.ofNat 5 w).getLsbD 4 = false
      rw [BitVec.getLsbD_ofNat, Nat.testBit_lt_two_pow hw, Bool.and_false]
    rw [step_of_not_rst hr, requestVector_withFetchWord, hi]

/-! ### What a command does not look at (R75, R82) -/

/-- An intact frame's command is its own stages, in an idle block: its count and its checksum have done their part. -/
theorem exec_instr_of_checksum (c : Command) {b : FrameBody} {s : State} (h : intact s.cfg c.id b = true) :
    exec (c.instr b) s = whenIdle s (commandStages c b) := by
  have hck : ck16 s.cfg (coveredBytes c.id b) = b.cks := by simpa [intact] using h
  rw [exec_instr, runCommand_eq]
  simp only [whenIdle, checksumStage_of_eq hck]

/-- Intact frames of a command whose stages are the same do the same. -/
theorem exec_instr_congr (c : Command) {b b' : FrameBody} {s : State} (h : intact s.cfg c.id b = true)
    (h' : intact s.cfg c.id b' = true) (hstages : commandStages c b' = commandStages c b) :
    exec (c.instr b') s = exec (c.instr b) s := by
  rw [exec_instr_of_checksum c h, exec_instr_of_checksum c h', hstages]

/-- MOTOR looks at `p0`, `p1`, `p2` (R76). -/
theorem motorStages_congr {b b' : FrameBody} (h0 : b'.p0 = b.p0) (h1 : b'.p1 = b.p1) (h2 : b'.p2 = b.p2) :
    motorStages b' = motorStages b := by
  funext s
  unfold motorStages motorIdLegal motorSpeedLegal motorDirLegal
  rw [h0, h1, h2]

/-- MOTORANGLE looks at `p1`, `p2`, `p3` (R77). -/
theorem motorangleStages_congr {b b' : FrameBody} (h1 : b'.p1 = b.p1) (h2 : b'.p2 = b.p2) (h3 : b'.p3 = b.p3) :
    motorangleStages b' = motorangleStages b := by
  have hangle : angleWord b' = angleWord b := by simp only [angleWord, h1, h2]
  funext s
  unfold motorangleStages angleLegal angleOperand
  rw [hangle, h3]

/-- CARHORN looks at `p1` (R78). -/
theorem carhornStages_congr {b b' : FrameBody} (h1 : b'.p1 = b.p1) : carhornStages b' = carhornStages b := by
  have hdur : durationOperand b' = durationOperand b := by simp only [durationOperand, h1]
  funext s
  unfold carhornStages durationLegal hornMs
  rw [hdur]

/-- CARLIGHT looks at `p1` (R79). -/
theorem carlightStages_congr {b b' : FrameBody} (h1 : b'.p1 = b.p1) : carlightStages b' = carlightStages b := by
  funext s
  unfold carlightStages lightCodeLegal lightChannel lightOn
  rw [h1]

/-- Settles O37: an intact frame does its command's stages, and these look at no other byte. -/
theorem unvalidatedBytesHaveNoEffect : Obligations.UnvalidatedBytesHaveNoEffect := by
  intro s b b'
  refine ⟨fun h h' h0 h1 h2 => ?_, fun h h' h1 h2 h3 => ?_, fun h h' h1 => ?_, fun h h' h1 => ?_, fun h h' => ?_⟩
  · exact exec_instr_congr .motor h h' (motorStages_congr h0 h1 h2)
  · exact exec_instr_congr .motorangle h h' (motorangleStages_congr h1 h2 h3)
  · exact exec_instr_congr .carhorn h h' (carhornStages_congr h1)
  · exact exec_instr_congr .carlight h h' (carlightStages_congr h1)
  · exact exec_instr_congr .carconfirmation h h' rfl

end Sys2Proof.Machine
end

section
/-! The checksum (`spec/40_checksum.md` R101 to R103): `SUM16` is the sum of the zero-extended bytes in the group of
16-bit words, so a change of one byte changes the sum by the difference of the two bytes, which is 0 only when the bytes
are equal. -/

namespace Sys2Proof.Machine

open Sys2Proof.Config

/-! ### `SUM16` (R102) -/

/-- The sum of the group of 16-bit words: the library's rules about sums speak of `SUM16`. -/
theorem sum16_eq_sum (l : List Byte) : sum16 l = (l.map (BitVec.setWidth 16)).sum := by
  rw [sum16, List.sum_eq_foldl, List.foldl_map]

@[simp] theorem sum16_nil : sum16 [] = 0 := rfl

@[simp] theorem sum16_cons (b : Byte) (l : List Byte) : sum16 (b :: l) = b.setWidth 16 + sum16 l := by
  simp only [sum16_eq_sum, List.map_cons, List.sum_cons]

theorem sum16_toNat (l : List Byte) : (sum16 l).toNat = (l.map BitVec.toNat).sum % 65536 := by
  induction l with
  | nil => rfl
  | cons b l ih => simp [ih, BitVec.toNat_setWidth, Nat.add_mod]

theorem sum_toNat_le (l : List Byte) : (l.map BitVec.toNat).sum ≤ 255 * l.length := by
  induction l with
  | nil => simp
  | cons b l ih =>
    have hb := b.isLt
    simp only [List.map_cons, List.sum_cons, List.length_cons]
    omega

/-- Six bytes never wrap. -/
theorem sum16_toNat_of_length_six {l : List Byte} (h : l.length = 6) :
    (sum16 l).toNat = (l.map BitVec.toNat).sum := by
  have hle := sum_toNat_le l
  rw [sum16_toNat, Nat.mod_eq_of_lt (by omega)]

theorem sum16_perm {l l' : List Byte} (h : l'.Perm l) : sum16 l' = sum16 l := by
  simp only [sum16_eq_sum, (h.map _).sum_eq]

theorem sum16_filter_ne_zero (l : List Byte) : sum16 (l.filter (· != 0)) = sum16 l := by
  induction l with
  | nil => rfl
  | cons b l ih =>
    by_cases hb : b = 0
    · rw [List.filter_cons_of_neg (by simpa using hb), ih, sum16_cons, hb]
      simp
    · rw [List.filter_cons_of_pos (by simpa using hb), sum16_cons, sum16_cons, ih]

/-- Zero extension keeps bytes apart. -/
theorem setWidth_byte_injective : Function.Injective (BitVec.setWidth 16 : Byte → Half) := by
  intro b b' h
  bv_omega

/-- `SUM16` tells any change of one byte. -/
theorem sum16_set_eq_iff {l : List Byte} {j : Nat} (hj : j < l.length) (b : Byte) :
    sum16 (l.set j b) = sum16 l ↔ b = l[j] := by
  have hsum : sum16 (l.set j b) = sum16 l + (-l[j].setWidth 16 + b.setWidth 16) := by
    simp [sum16_eq_sum, List.map_set, List.sum_set', hj]
  rw [hsum, add_eq_left, neg_add_eq_zero]
  exact ⟨fun h => (setWidth_byte_injective h).symm, fun h => by rw [h]⟩

/-! ### CK-P3 (R101) -/

/-- A flipped bit changes its byte. -/
theorem xor_twoPow_ne_self (b : Byte) {k : Nat} (hk : k < 8) : b ^^^ BitVec.twoPow 8 k ≠ b := by
  intro h
  have hbit := congrArg (fun x => x.getLsbD k) h
  simp [hk] at hbit

theorem sum16_singleBitSensitive : SingleBitSensitive sum16 := by
  intro l hl j k hj hk h
  have hjl : j < l.length := hl ▸ hj
  have hbyte := (sum16_set_eq_iff hjl _).1 h
  rw [List.getD_eq_getElem _ _ hjl] at hbyte
  exact xor_twoPow_ne_self _ hk hbyte

/-- Whichever function the parameter is, it has CK-P3. -/
theorem ckFunction_singleBitSensitive (c : CkInstance) : SingleBitSensitive (ckFunction c) := by
  obtain h | ⟨k, -, hk, h⟩ := ckFunction_cases c
  · rw [h]
    exact sum16_singleBitSensitive
  · rw [h]
    exact hk

@[simp] theorem length_flipBit (l : List Byte) (j k : Nat) : (flipBit l j k).length = l.length :=
  List.length_set

/-- Away from the empty list, `CK16` is the function of the parameter. -/
theorem ck16_of_length_pos (p : Params) {l : List Byte} (h : 0 < l.length) : ck16 p l = ckFunction p.ck l := by
  cases l with
  | nil => cases h
  | cons b l => exact ck16_cons p b l

/-- Settles O23: on six bytes `CK16` is the function of the parameter, and that has CK-P3. -/
theorem checksumTellsSingleBits : Obligations.ChecksumTellsSingleBits := by
  intro p l hl j k hj hk
  rw [ck16_of_length_pos p (l := flipBit l j k) (by simp [hl]), ck16_of_length_pos p (l := l) (by simp [hl])]
  exact ckFunction_singleBitSensitive p.ck l hl j k hj hk

/-! ### `CK16` taken as `SUM16`, and CKSUM (R103) -/

/-- With legal parameters the base value of `SUM16` is its value on the empty list, so `CK16` is `SUM16` on every list. -/
theorem ck16_eq_sum16 {p : Params} (hp : p.Wf) (h : p.ck = .sum16) (l : List Byte) : ck16 p l = sum16 l := by
  cases l with
  | nil => simpa using hp.ckBase_sum16 h
  | cons b l => rw [ck16_cons, h, ckFunction_sum16]

/-- Settles O22: the sum modulo 65536, of which six bytes stay below 1531. -/
theorem sum16IsByteSumModulo : Obligations.Sum16IsByteSumModulo := by
  refine ⟨sum16_toNat, sum16_nil, fun b => ?_, fun l hl => ?_, fun p hp h l => ?_⟩
  · have hb := b.isLt
    rw [sum16_toNat, List.map_singleton, List.sum_singleton, Nat.mod_eq_of_lt (by omega)]
  · have hle := sum_toNat_le l
    rw [sum16_toNat_of_length_six hl]
    exact ⟨rfl, by omega⟩
  · rw [ck16_eq_sum16 hp h, sum16_toNat]

/-- CKSUM shows its value and touches nothing else. -/
theorem exec_cksum (l : List Byte) (s : State) :
    exec (.cksum l) s = .next { s with ckResult := ck16 s.cfg l } := rfl

/-- Settles O24: the operation's equation, and the rules of `SUM16` for its value. -/
theorem cksumAnswersChecksum : Obligations.CksumAnswersChecksum := by
  intro s l
  refine ⟨exec_cksum l s, ck16_nil s.cfg, fun hp h => ?_⟩
  simp only [ck16_eq_sum16 hp h]
  exact ⟨sum16_toNat l, fun _ hperm => sum16_perm hperm, sum16_filter_ne_zero l⟩

end Sys2Proof.Machine
end

section
/-! What a wire command and a DECODE answer (`spec/41_packet_codec.md` R114 to R121; `spec/42_commands.md` R130): the
one-step outputs of an idle block are a function of the parameters, `frame_present` and the frame, written down here once
and tied to the operations; then each stage of DECODE as an equation on the whole next state. -/

namespace Sys2Proof.Machine

open Sys2Proof.Config

/-! ### The answer of a command (R130) -/

/-- The first field check of a command that fails, in the order of its rule (R131, R133, R135, R137, R139). -/
def fieldFailure (p : Params) (c : Command) (b : FrameBody) : Option ResultCode :=
  match c with
  | .motor =>
    if motorIdLegal b = false then some .errMotorId
    else if motorSpeedLegal b = false then some .errMotorSpeed
    else if motorDirLegal b = false then some .errMotorDir
    else none
  | .motorangle => if angleLegal p b = false then some .errAngle else none
  | .carhorn => if durationLegal b = false then some .errHornDuration else none
  | .carlight => if lightCodeLegal b = false then some .errLightCode else none
  | .carconfirmation => none

/-- The call of a command whose fields are legal. -/
def commandCall (c : Command) (b : FrameBody) : Option CallRecord :=
  match c with
  | .motor => some (.speedSet b.p0 b.p1 b.p2)
  | .motorangle => some (.angleSet (angleWord b) b.p3)
  | .carhorn => some (.hornTrigger (hornMs b))
  | .carlight => some (.lightSet (lightChannel b) (lightOn b))
  | .carconfirmation => none

/-- The one-step outputs of a command after the checksum stage. -/
def commandStrobes (p : Params) (c : Command) (b : FrameBody) : Strobes :=
  match fieldFailure p c b with
  | some code => failedStrobes code
  | none => okStrobes (commandCall c b)

theorem commandStrobes_of_failure {p : Params} {c : Command} {b : FrameBody} {code : ResultCode}
    (h : fieldFailure p c b = some code) : commandStrobes p c b = failedStrobes code := by
  rw [commandStrobes, h]

theorem commandStrobes_of_no_failure {p : Params} {c : Command} {b : FrameBody} (h : fieldFailure p c b = none) :
    commandStrobes p c b = okStrobes (commandCall c b) := by
  rw [commandStrobes, h]

theorem fieldFailure_eq_none {p : Params} {c : Command} {b : FrameBody} :
    fieldFailure p c b = none ↔ legal p c b = true := by
  cases c with
  | motor =>
    simp only [fieldFailure, legal]
    cases motorIdLegal b <;> cases motorSpeedLegal b <;> cases motorDirLegal b <;> simp
  | motorangle => simp [fieldFailure, legal]
  | carhorn => simp [fieldFailure, legal]
  | carlight => simp [fieldFailure, legal]
  | carconfirmation => simp [fieldFailure, legal]

/-- A command's own checks raise codes of the class of field errors only (`spec/60_exceptions.md` R191). -/
theorem fieldFailure_failureClass {p : Params} {c : Command} {b : FrameBody} {code : ResultCode}
    (h : fieldFailure p c b = some code) : code.failureClass = some .fieldError := by
  cases c <;> simp only [fieldFailure] at h
  case carconfirmation => cases h
  all_goals
    split_ifs at h
    all_goals
      cases h
      rfl

theorem commandStrobes_resultCode_eq_ok {p : Params} {c : Command} {b : FrameBody} :
    (commandStrobes p c b).resultCode = .ok ↔ legal p c b = true := by
  rw [← fieldFailure_eq_none]
  cases h : fieldFailure p c b with
  | none => simp [commandStrobes_of_no_failure h, okStrobes]
  | some code =>
    have hne : code ≠ .ok := by
      rintro rfl
      exact absurd (fieldFailure_failureClass h) (by decide)
    simp [commandStrobes_of_failure h, failedStrobes, hne]

/-- The stages of a command after the checksum show exactly these outputs in an idle block. -/
theorem commandStages_strobes {c : Command} {b : FrameBody} {s t : State} (hi : s.pac.Idle)
    (h : commandStages c b s = .next t) : t.strobes = commandStrobes s.cfg c b := by
  cases c with
  | motor =>
    rcases motorStages_cases b s with ⟨hid, hrun⟩ | ⟨hid, hspeed, hrun⟩ | ⟨hid, hspeed, hdir, hrun⟩ |
      ⟨hid, hspeed, hdir, hrun⟩ <;> cases h.symm.trans hrun
    · simp [commandStrobes, fieldFailure, hid]
    · simp [commandStrobes, fieldFailure, hid, hspeed]
    · simp [commandStrobes, fieldFailure, hid, hspeed, hdir]
    · simp [commandStrobes, fieldFailure, hid, hspeed, hdir, commandCall, callAndReturn_eq]
  | motorangle =>
    rcases motorangleStages_cases b hi with ⟨hangle, hrun⟩ | ⟨hangle, r, -, hrun⟩ <;> cases h.symm.trans hrun
    · simp [commandStrobes, fieldFailure, hangle]
    · simp [commandStrobes, fieldFailure, hangle, commandCall, callAndReturn_eq]
  | carhorn =>
    rcases carhornStages_cases b s with ⟨hdur, hrun⟩ | ⟨hdur, hrun⟩ <;> cases h.symm.trans hrun
    · simp [commandStrobes, fieldFailure, hdur]
    · simp [commandStrobes, fieldFailure, hdur, commandCall, callAndReturn_eq]
  | carlight =>
    rcases carlightStages_cases b s with ⟨hcode, hrun⟩ | ⟨hcode, hrun⟩ <;> cases h.symm.trans hrun
    · simp [commandStrobes, fieldFailure, hcode]
    · simp [commandStrobes, fieldFailure, hcode, commandCall, callAndReturn_eq]
  | carconfirmation =>
    cases h
    rfl

/-! ### A command, whole -/

/-- The meaning of a wire command whose checksum is wrong, in an idle block. -/
theorem exec_instr_of_not_intact (c : Command) {b : FrameBody} {s : State} (hi : s.pac.Idle)
    (h : ck16 s.cfg (coveredBytes c.id b) ≠ b.cks) :
    exec (c.instr b) s = .next (s.setStrobes (failedStrobes .errChecksum)) := by
  rw [exec_instr, runCommand_eq, whenIdle_of_idle hi, checksumStage_of_ne h]

/-- Settles O39: the checksum stage stands before the command's own stages. -/
theorem wrongChecksumStopsEveryCommand : Obligations.WrongChecksumStopsEveryCommand :=
  fun _ c _ hi h => exec_instr_of_not_intact c hi h

theorem wellFormed_instr (p : Params) (c : Command) (b : FrameBody) :
    WellFormed p (c.instr b) = true ↔ ck16 p (coveredBytes c.id b) = b.cks ∧ legal p c b = true := by
  have hboth : WellFormed p (c.instr b) = (intact p c.id b && legal p c b) := by cases c <;> rfl
  simp [hboth, intact]

/-- Settles O40: a wrong checksum is reported, and an intact command returns 0 exactly when no field check fails. -/
theorem wellFormedCommandsAreTheAcceptedOnes : Obligations.WellFormedCommandsAreTheAcceptedOnes := by
  intro s c b hi
  rw [wellFormed_instr]
  by_cases hck : ck16 s.cfg (coveredBytes c.id b) = b.cks
  · rw [exec_instr_of_intact c hi hck]
    obtain ⟨t, ht⟩ := commandStages_next c b hi
    refine ⟨t, ht, (commandStages_decAck hi ht).1, ?_⟩
    rw [commandStages_strobes hi ht, commandStrobes_resultCode_eq_ok]
    simp [hck]
  · exact ⟨_, exec_instr_of_not_intact c hi hck, rfl, by simp [hck, failedStrobes]⟩

/-! ### DECODE, stage by stage (R114) -/

section Stages

variable {s : State} (hi : s.pac.Idle)
include hi

theorem execDecode_of_absent (hp : s.port.framePresent = false) :
    execDecode s = .next (s.setStrobes (failedStrobes .errNull)) := by
  simp [execDecode_of_idle hi, hp, raiseRC_eq]

variable (hp : s.port.framePresent = true)
include hp

/-- Stage 1 is passed by a frame that is present. -/
theorem execDecode_of_present : execDecode s = decodeStages s.fb.frame s := by
  simp [execDecode_of_idle hi, hp]

theorem execDecode_of_wrongMarker (h : s.fb.frame.start ≠ startMarker ∨ s.fb.frame.stop ≠ endMarker) :
    execDecode s = .next (s.setStrobes (failedStrobes .errSentinel)) := by
  rw [execDecode_of_present hi hp, decodeStages, select_eq_badSentinel.2 h, raiseRC_eq]

variable (hstart : s.fb.frame.start = startMarker) (hstop : s.fb.frame.stop = endMarker)
include hstart hstop

/-- Stage 3 comes before the id is looked at: a frame that selects no command runs it too. -/
theorem execDecode_of_wrongChecksum
    (hck : ck16 s.cfg (coveredBytes s.fb.frame.id s.fb.frame.body) ≠ s.fb.frame.body.cks) :
    execDecode s = .next (s.setStrobes (failedStrobes .errChecksum)) := by
  rw [execDecode_of_present hi hp]
  rcases decodeStages_cases s.fb.frame hi with ⟨hmark, -⟩ | ⟨-, -, -, h⟩ | ⟨-, -, hck', -⟩ | ⟨-, -, hck', -⟩
  · exact absurd hmark (by simp [hstart, hstop])
  · exact h
  · exact absurd hck' hck
  · exact absurd hck' hck

theorem execDecode_of_unassignedId
    (hck : ck16 s.cfg (coveredBytes s.fb.frame.id s.fb.frame.body) = s.fb.frame.body.cks)
    (hid : s.fb.frame.id.toNat = 0 ∨ 6 ≤ s.fb.frame.id.toNat) :
    execDecode s = .next (s.setStrobes (failedStrobes .errUnknownCmd)) := by
  rw [execDecode_of_present hi hp, decodeStages, select_eq_unknownId.2 ⟨hstart, hstop, hid⟩]
  exact checksumStage_of_eq hck

theorem execDecode_of_command {c : Command} (hid : s.fb.frame.id = c.id) :
    execDecode s = exec (c.instr s.fb.frame.body) s := by
  rw [execDecode_of_present hi hp, decodeStages, select_eq_command.2 ⟨hstart, hstop, hid⟩, exec_instr]

end Stages

/-- The four marker bytes of R53 make both markers. -/
theorem Memory.frame_markers {m : Memory} (h0 : m.get 0 = 0x55) (h1 : m.get 1 = 0xAA) (h10 : m.get 10 = 0x0A)
    (h11 : m.get 11 = 0x0D) : m.frame.start = startMarker ∧ m.frame.stop = endMarker :=
  ⟨(Memory.frame_start_eq m).2 ⟨h0, h1⟩, (Memory.frame_stop_eq m).2 ⟨h10, h11⟩⟩

/-- Settles O27. -/
theorem decodeOfAbsentFrame : Obligations.DecodeOfAbsentFrame :=
  fun _ hi hp => execDecode_of_absent hi hp

/-- Settles O28: a byte of a marker is wrong exactly when the marker is. -/
theorem decodeOfWrongMarker : Obligations.DecodeOfWrongMarker := by
  intro s hi hp hbytes
  refine execDecode_of_wrongMarker hi hp ?_
  simp only [ne_eq, Memory.frame_start_eq, Memory.frame_stop_eq]
  tauto

/-- Settles O29. -/
theorem decodeOfWrongChecksum : Obligations.DecodeOfWrongChecksum := by
  intro s hi hp h0 h1 h10 h11 hck
  obtain ⟨hstart, hstop⟩ := Memory.frame_markers h0 h1 h10 h11
  exact execDecode_of_wrongChecksum hi hp hstart hstop hck

/-- Settles O31. -/
theorem decodeOfUnassignedId : Obligations.DecodeOfUnassignedId := by
  intro s hi hp h0 h1 h10 h11 hck hid
  obtain ⟨hstart, hstop⟩ := Memory.frame_markers h0 h1 h10 h11
  exact execDecode_of_unassignedId hi hp hstart hstop hck (hid.imp_left fun h => congrArg BitVec.toNat h)

/-- Settles O32. -/
theorem decodeRunsSelectedCommand : Obligations.DecodeRunsSelectedCommand := by
  intro s c hi hp h0 h1 h10 h11 hid
  obtain ⟨hstart, hstop⟩ := Memory.frame_markers h0 h1 h10 h11
  exact execDecode_of_command hi hp hstart hstop hid

/-! ### The answer of a DECODE (R119, R120) -/

/-- The one-step outputs of stages 4 and 5: those of the command the id selects, if it selects one. -/
def dispatchStrobes (p : Params) (id : Byte) (b : FrameBody) : Strobes :=
  match commandOfId id with
  | none => failedStrobes .errUnknownCmd
  | some c => commandStrobes p c b

theorem dispatchStrobes_of_unassigned {p : Params} {id : Byte} {b : FrameBody} (h : commandOfId id = none) :
    dispatchStrobes p id b = failedStrobes .errUnknownCmd := by
  rw [dispatchStrobes, h]

theorem dispatchStrobes_of_command {p : Params} {id : Byte} {b : FrameBody} {c : Command} (h : commandOfId id = some c) :
    dispatchStrobes p id b = commandStrobes p c b := by
  rw [dispatchStrobes, h]

/-- The one-step outputs of a DECODE, stage by stage: a function of the parameters, `frame_present` and the frame. -/
def decodeStrobes (p : Params) (present : Bool) (v : FrameView) : Strobes :=
  if present = false then failedStrobes .errNull
  else if v.start ≠ startMarker ∨ v.stop ≠ endMarker then failedStrobes .errSentinel
  else if ck16 p (coveredBytes v.id v.body) ≠ v.body.cks then failedStrobes .errChecksum
  else dispatchStrobes p v.id v.body

theorem decodeStrobes_of_intact {p : Params} {v : FrameView} (hstart : v.start = startMarker) (hstop : v.stop = endMarker)
    (hck : ck16 p (coveredBytes v.id v.body) = v.body.cks) : decodeStrobes p true v = dispatchStrobes p v.id v.body := by
  simp [decodeStrobes, hstart, hstop, hck]

/-- DECODE of an idle block shows exactly these outputs. -/
theorem execDecode_strobes {s t : State} (hi : s.pac.Idle) (h : execDecode s = .next t) :
    t.strobes = decodeStrobes s.cfg s.port.framePresent s.fb.frame := by
  cases hp : s.port.framePresent with
  | false =>
    cases h.symm.trans (execDecode_of_absent hi hp)
    rfl
  | true =>
    by_cases hmark : s.fb.frame.start ≠ startMarker ∨ s.fb.frame.stop ≠ endMarker
    · cases h.symm.trans (execDecode_of_wrongMarker hi hp hmark)
      simp [decodeStrobes, hmark]
    push Not at hmark
    obtain ⟨hstart, hstop⟩ := hmark
    by_cases hck : ck16 s.cfg (coveredBytes s.fb.frame.id s.fb.frame.body) = s.fb.frame.body.cks
    · rw [decodeStrobes_of_intact hstart hstop hck]
      cases hsel : commandOfId s.fb.frame.id with
      | none =>
        rw [dispatchStrobes_of_unassigned hsel]
        cases h.symm.trans (execDecode_of_unassignedId hi hp hstart hstop hck (commandOfId_eq_none.1 hsel))
        rfl
      | some c =>
        have hid := commandOfId_eq_some.1 hsel
        rw [execDecode_of_command hi hp hstart hstop hid, exec_instr_of_intact c hi (hid ▸ hck)] at h
        rw [dispatchStrobes_of_command hsel]
        exact commandStages_strobes hi h
    · cases h.symm.trans (execDecode_of_wrongChecksum hi hp hstart hstop hck)
      simp [decodeStrobes, hstart, hstop, hck]

/-- Buffers that agree in their twelve bytes hold the same frame. -/
theorem Memory.frame_congr {m m' : Memory} (h : ∀ a, a < 12 → m'.get a = m.get a) : m'.frame = m.frame := by
  have hbytes : m'.bytes = m.bytes := List.map_congr_left fun a ha => h a (List.mem_range.1 ha)
  simpa [hbytes] using (frameOfBytes_bytes m').symm

/-- Settles O36: both blocks answer with the same function of the same arguments. -/
theorem decodeResultDependsOnFrameOnly : Obligations.DecodeResultDependsOnFrameOnly := by
  intro s s' t t' hi hi' hp hbytes hcfg h h'
  rw [execDecode_strobes hi h, execDecode_strobes hi' h', hp, hcfg, Memory.frame_congr hbytes]

theorem command_id_toNat_mem (c : Command) : c.id.toNat ∈ [1, 2, 3, 4, 5] := by
  cases c <;> decide

/-- A legal command makes the call its port shows, and CARCONFIRMATION alone makes none. -/
theorem commandStages_call {c : Command} {b : FrameBody} {s t : State} (hi : s.pac.Idle)
    (hlegal : legal s.cfg c b = true) (h : commandStages c b s = .next t) :
    t.records = s.records ++ t.strobes.call.toList ∧ (t.strobes.call = none ↔ c = .carconfirmation) := by
  rcases commandStages_cases c b hi with ⟨hillegal, -⟩ | ⟨-, hc, hdone⟩ | ⟨-, hc, call, r, -, hdone⟩
  · rw [hlegal] at hillegal
    cases hillegal
  · cases h.symm.trans hdone
    simp [returnOk_eq, okStrobes, hc]
  · cases h.symm.trans hdone
    simp [callAndReturn_eq, okStrobes, hc]

/-- Settles O35: a DECODE that returns 0 ran the stages of a legal command, which make its call. -/
theorem successfulDecodeMakesOneCall : Obligations.SuccessfulDecodeMakesOneCall := by
  intro s t hi h hok
  rcases execDecode_cases hi with ⟨code, hcode, hfail⟩ | ⟨-, -, -, -, c, hid, hrun, hlegal⟩
  · cases h.symm.trans hfail
    exact absurd hok hcode
  · obtain ⟨hrecords, hcall⟩ := commandStages_call hi hlegal (hrun.symm.trans h)
    have hconf : s.fb.frame.id = 5 ↔ c = .carconfirmation :=
      ⟨fun h5 => Command.id_inj (hid.symm.trans h5), fun hc => by rw [hid, hc]; rfl⟩
    exact ⟨hrecords, hid ▸ command_id_toNat_mem c, hcall.trans hconf.symm,
      fun hne => (execDecode_pac_or_id h).resolve_right fun ⟨h2, _⟩ => hne h2⟩

end Sys2Proof.Machine
end

section
/-! ENCODE and the integrity of a frame (`spec/41_packet_codec.md` R111 to R113, R117): ENCODE's word is the word of its
frame, a buffer that holds it holds an intact frame, and a flipped bit of the covered bytes or of the checksum field parts
the two sides of the checksum stage. -/

namespace Sys2Proof.Machine

open Sys2Proof.Config

/-! ### ENCODE (R111) -/

/-- The bytes of ENCODE's frame: the markers as R53 spells them out, the payload, the count 1, the checksum low first. -/
theorem frameToBytes_encodeFrame (p : Params) (payload : BitVec 32) (id : Byte) :
    frameToBytes (encodeFrame p payload id) =
      [0x55, 0xAA, id, payload.extractLsb' 0 8, payload.extractLsb' 8 8, payload.extractLsb' 16 8,
        payload.extractLsb' 24 8, 1, loByte (encodeBody p payload id).cks, hiByte (encodeBody p payload id).cks,
        0x0A, 0x0D] := by
  have hstart : loByte startMarker = 0x55 ∧ hiByte startMarker = 0xAA := ⟨rfl, rfl⟩
  have hstop : loByte endMarker = 0x0A ∧ hiByte endMarker = 0x0D := ⟨rfl, rfl⟩
  simp only [frameToBytes, encodeFrame, hstart, hstop]
  rfl

/-- Settles O25: byte by byte, the word of a frame is the frame's bytes. -/
theorem encodeBuildsFrame : Obligations.EncodeBuildsFrame := by
  intro s
  have byte {k : Nat} (hk : k < 12) := frameToWord_byte (encodeFrame s.cfg s.port.encPayload s.port.encId) hk
  simp only [frameToBytes_encodeFrame] at byte
  exact ⟨_, _, rfl, rfl, byte (k := 0) (by decide), byte (k := 1) (by decide), byte (k := 2) (by decide),
    byte (k := 3) (by decide), byte (k := 4) (by decide), byte (k := 5) (by decide), byte (k := 6) (by decide),
    byte (k := 7) (by decide), byte (k := 8) (by decide), byte (k := 9) (by decide), byte (k := 10) (by decide),
    byte (k := 11) (by decide)⟩

/-- A buffer that holds the bytes of ENCODE's word holds ENCODE's frame. -/
theorem frame_of_encFrame_bytes {m : Memory} {e e' : State} (h : exec .encode e = .next e')
    (hbytes : ∀ k, k < 12 → m.get k = e'.encFrame.extractLsb' (8 * k) 8) :
    m.frame = encodeFrame e.cfg e.port.encPayload e.port.encId := by
  cases h
  exact Memory.frame_of_bytes fun k hk => (hbytes k hk).trans (frameToWord_byte _ hk)

/-- ENCODE writes the checksum that DECODE computes (CK-P4). -/
theorem encodeFrame_intact (p : Params) (payload : BitVec 32) (id : Byte) :
    ck16 p (coveredBytes id (encodeBody p payload id)) = (encodeBody p payload id).cks := rfl

/-- An encoded frame passes stages 1 to 3: the answer is decided by its id and its fields. -/
theorem decodeStrobes_encodeFrame (p : Params) (payload : BitVec 32) (id : Byte) :
    decodeStrobes p true (encodeFrame p payload id) = dispatchStrobes p id (encodeBody p payload id) :=
  decodeStrobes_of_intact rfl rfl (encodeFrame_intact p payload id)

/-- Stages 4 and 5 report no frame error and no integrity error (`spec/60_exceptions.md` R191). -/
theorem dispatchStrobes_failureClass (p : Params) (id : Byte) (b : FrameBody) :
    (dispatchStrobes p id b).resultCode.failureClass ∈
      [none, some FailureClass.unrecognizedCommand, some FailureClass.fieldError] := by
  cases hsel : commandOfId id with
  | none =>
    rw [dispatchStrobes_of_unassigned hsel]
    decide
  | some c =>
    rw [dispatchStrobes_of_command hsel]
    cases hfield : fieldFailure p c b with
    | none =>
      rw [commandStrobes_of_no_failure hfield]
      exact List.mem_cons_self
    | some code =>
      rw [commandStrobes_of_failure hfield]
      simp [failedStrobes, fieldFailure_failureClass hfield]

/-- Settles O26: the buffer holds an intact frame with good markers, so the answer is that of the id and the fields. -/
theorem encodedFrameIsAccepted : Obligations.EncodedFrameIsAccepted := by
  intro e e' s he hcfg hi hp hbytes
  obtain ⟨t, ht⟩ := execDecode_next s
  have hframe := frame_of_encFrame_bytes he hbytes
  have hstrobes : t.strobes =
      dispatchStrobes e.cfg e.port.encId (encodeBody e.cfg e.port.encPayload e.port.encId) := by
    rw [execDecode_strobes hi ht, hp, hcfg, hframe, decodeStrobes_encodeFrame]
  have hclass := dispatchStrobes_failureClass e.cfg e.port.encId (encodeBody e.cfg e.port.encPayload e.port.encId)
  rw [← hstrobes] at hclass
  have hnot {code : ResultCode} (hcode : code.failureClass ∉
      [none, some FailureClass.unrecognizedCommand, some FailureClass.fieldError]) : t.strobes.resultCode ≠ code :=
    fun hc => hcode (hc ▸ hclass)
  refine ⟨t, ht, (execDecode_decAck hi ht).1, hnot (by decide), hnot (by decide), hnot (by decide),
    fun c hid hlegal => ?_⟩
  rw [hframe, hcfg] at hlegal
  rw [hstrobes, dispatchStrobes_of_command (commandOfId_eq_some.2 hid.symm)]
  exact commandStrobes_resultCode_eq_ok.2 hlegal

/-! ### A flipped bit (R117) -/

/-- Where the covered bytes stand in a frame, in the order of R74: `p0, p1, p2, p3, id, count`. -/
def coveredOffsets : List Nat := [3, 4, 5, 6, 2, 7]

theorem coveredBytes_frame (m : Memory) : coveredBytes m.frame.id m.frame.body = coveredOffsets.map m.get := rfl

/-- `m'` is `m` with bit `j` of byte `k` flipped (the addresses outside the frame apart). -/
def FlipsBit (m m' : Memory) (k j : Nat) : Prop :=
  ∀ a, a < 12 → m'.get a = if a = k then m.get a ^^^ BitVec.twoPow 8 j else m.get a

theorem FlipsBit.get_of_ne {m m' : Memory} {k j : Nat} (h : FlipsBit m m' k j) {a : Nat} (ha : a < 12) (hne : a ≠ k) :
    m'.get a = m.get a :=
  (h a ha).trans (if_neg hne)

theorem FlipsBit.get_flipped {m m' : Memory} {k j : Nat} (h : FlipsBit m m' k j) (hk : k < 12) :
    m'.get k = m.get k ^^^ BitVec.twoPow 8 j :=
  (h k hk).trans (if_pos rfl)

/-- Reading distinct offsets out of a buffer with one flipped bit is flipping a bit of what was read. -/
theorem FlipsBit.map_get {m m' : Memory} {k j : Nat} (h : FlipsBit m m' k j) {l : List Nat} (hl : l.Nodup)
    (hlt : ∀ a ∈ l, a < 12) (hk : k ∈ l) : l.map m'.get = flipBit (l.map m.get) (l.idxOf k) j := by
  have hidx : l.idxOf k < (l.map m.get).length := by simpa using List.idxOf_lt_length_of_mem hk
  have hread : (l.map m.get).getD (l.idxOf k) 0 = m.get k := by
    rw [List.getD_eq_getElem _ _ hidx, List.getElem_map, List.getElem_idxOf]
  apply List.ext_getElem
  · simp
  · intro i hi _
    have hil : i < l.length := by simpa using hi
    have hget := h l[i] (hlt _ (List.getElem_mem hil))
    have hiff : l[i] = k ↔ l.idxOf k = i :=
      ⟨fun hk => by rw [← hk, hl.idxOf_getElem], fun hk => by simp [← hk]⟩
    simp only [flipBit, List.getElem_map, List.getElem_set, hget, hread, ← hiff]
    split
    next heq => rw [heq]
    next => rfl

/-- A flipped bit of a covered byte changes the computed checksum (CK-P3). -/
theorem FlipsBit.ck16_ne {m m' : Memory} {k j : Nat} (h : FlipsBit m m' k j) (hj : j < 8) (hk : k ∈ coveredOffsets)
    (p : Params) :
    ck16 p (coveredBytes m'.frame.id m'.frame.body) ≠ ck16 p (coveredBytes m.frame.id m.frame.body) := by
  rw [coveredBytes_frame, coveredBytes_frame, h.map_get (by decide) (by decide) hk]
  exact checksumTellsSingleBits p _ rfl _ _ (List.idxOf_lt_length_of_mem hk) hj

/-- A flipped bit of the checksum field changes the field. -/
theorem FlipsBit.cks_ne {m m' : Memory} {k j : Nat} (h : FlipsBit m m' k j) (hj : j < 8) (hk : k = 8 ∨ k = 9) :
    m'.frame.body.cks ≠ m.frame.body.cks := by
  intro heq
  obtain ⟨hlo, hhi⟩ : m'.get 8 = m.get 8 ∧ m'.get 9 = m.get 9 := leHalf_inj.1 heq
  rcases hk with rfl | rfl
  · exact xor_twoPow_ne_self _ hj ((h.get_flipped (by decide)).symm.trans hlo)
  · exact xor_twoPow_ne_self _ hj ((h.get_flipped (by decide)).symm.trans hhi)

theorem FlipsBit.coveredBytes_eq {m m' : Memory} {k j : Nat} (h : FlipsBit m m' k j) (hk : k = 8 ∨ k = 9) :
    coveredBytes m'.frame.id m'.frame.body = coveredBytes m.frame.id m.frame.body := by
  have hlt : ∀ a ∈ coveredOffsets, a < 8 := by decide
  rw [coveredBytes_frame, coveredBytes_frame]
  refine List.map_congr_left fun a ha => ?_
  have ha8 := hlt a ha
  exact h.get_of_ne (by omega) (by omega)

theorem FlipsBit.cks_eq {m m' : Memory} {k j : Nat} (h : FlipsBit m m' k j) (hk : k < 8) :
    m'.frame.body.cks = m.frame.body.cks :=
  leHalf_inj.2 ⟨h.get_of_ne (by decide) (by omega), h.get_of_ne (by decide) (by omega)⟩

/-- Whichever of bytes 2 to 9 it stands in, a flipped bit parts an intact frame's checksum from its field. -/
theorem FlipsBit.not_intact {m m' : Memory} {k j : Nat} (h : FlipsBit m m' k j) (hj : j < 8) (hk2 : 2 ≤ k) (hk9 : k ≤ 9)
    {p : Params} (hck : ck16 p (coveredBytes m.frame.id m.frame.body) = m.frame.body.cks) :
    ck16 p (coveredBytes m'.frame.id m'.frame.body) ≠ m'.frame.body.cks := by
  by_cases hk : k < 8
  · have hmem : k ∈ coveredOffsets := by
      simp only [coveredOffsets, List.mem_cons, List.not_mem_nil]
      omega
    rw [h.cks_eq hk, ← hck]
    exact h.ck16_ne hj hmem p
  · have hfield : k = 8 ∨ k = 9 := by omega
    rw [h.coveredBytes_eq hfield, hck]
    exact (h.cks_ne hj hfield).symm

theorem FlipsBit.markers_eq {m m' : Memory} {k j : Nat} (h : FlipsBit m m' k j) (hk2 : 2 ≤ k) (hk9 : k ≤ 9) :
    m'.frame.start = m.frame.start ∧ m'.frame.stop = m.frame.stop :=
  ⟨leHalf_inj.2 ⟨h.get_of_ne (by decide) (by omega), h.get_of_ne (by decide) (by omega)⟩,
    leHalf_inj.2 ⟨h.get_of_ne (by decide) (by omega), h.get_of_ne (by decide) (by omega)⟩⟩

/-- Settles O30: an accepted frame has good markers and is intact; with the bit flipped the markers stay good and the
checksum stage fails. -/
theorem singleBitFlipIsReported : Obligations.SingleBitFlipIsReported := by
  intro s t s' k j hi hp ht hok hk2 hk9 hj hi' hp' hcfg hflip
  rcases execDecode_cases hi with ⟨code, hcode, hfail⟩ | ⟨-, hstart, hstop, hck, -⟩
  · cases ht.symm.trans hfail
    exact absurd hok hcode
  · have hflip : FlipsBit s.fb s'.fb k j := hflip
    obtain ⟨hstart', hstop'⟩ := hflip.markers_eq hk2 hk9
    have hck' := hflip.not_intact hj hk2 hk9 hck
    exact ⟨_, execDecode_of_wrongChecksum hi' hp' (hstart'.trans hstart) (hstop'.trans hstop) (hcfg ▸ hck'), rfl⟩

end Sys2Proof.Machine
end

section
/-! The wire commands one by one (`spec/42_commands.md`): which code each rule's checks report on which bytes, the whole
next state of an intact command that fails a check and of one that makes its call, and the call's arguments. -/

namespace Sys2Proof.Machine

open Sys2Proof.Config

/-! ### An intact command in an idle block, whole (R130) -/

section Intact

variable {c : Command} {b : FrameBody} {s : State}

/-- A failed field check is all that an intact command shows. -/
theorem exec_instr_of_failure {code : ResultCode} (hi : s.pac.Idle) (hck : ck16 s.cfg (coveredBytes c.id b) = b.cks)
    (hf : fieldFailure s.cfg c b = some code) : exec (c.instr b) s = .next (s.setStrobes (failedStrobes code)) := by
  have hillegal : legal s.cfg c b ≠ true := fun hl => by simp [fieldFailure_eq_none.2 hl] at hf
  rw [exec_instr_of_intact c hi hck]
  rcases commandStages_cases c b hi with ⟨-, code', -, hrun⟩ | ⟨hl, -⟩ | ⟨hl, -⟩
  · have hstrobes := commandStages_strobes hi hrun
    rw [commandStrobes_of_failure hf] at hstrobes
    rw [hrun, ← hstrobes]
    rfl
  · exact absurd hl hillegal
  · exact absurd hl hillegal

/-- A legal command other than MOTORANGLE returns 0 with its call, if it has one, and keeps the registers. -/
theorem exec_instr_of_no_failure (hi : s.pac.Idle) (hck : ck16 s.cfg (coveredBytes c.id b) = b.cks)
    (hf : fieldFailure s.cfg c b = none) (hc : c ≠ .motorangle) :
    exec (c.instr b) s = .next { s with
      strobes := okStrobes (commandCall c b), records := s.records ++ (commandCall c b).toList } := by
  rw [exec_instr_of_intact c hi hck]
  rcases commandStages_cases c b hi with ⟨hillegal, -⟩ | ⟨-, rfl, hrun⟩ | ⟨-, -, call, r, hr, hrun⟩
  · rw [fieldFailure_eq_none.1 hf] at hillegal
    cases hillegal
  · simp [hrun, returnOk_eq, State.setStrobes, commandCall]
  · have hcall : okStrobes (some call) = okStrobes (commandCall c b) :=
      (commandStages_strobes hi hrun).trans (commandStrobes_of_no_failure hf)
    have hcall' : commandCall c b = some call := (congrArg Strobes.call hcall).symm
    rw [hrun, hr hc, hcall']
    rfl

end Intact

/-! ### MOTOR (R131, R132) -/

/-- The checks of MOTOR on the bytes, in their order. -/
theorem fieldFailure_motor (p : Params) (b : FrameBody) :
    fieldFailure p .motor b =
      if b.p0 ≠ 1 ∧ b.p0 ≠ 2 then some .errMotorId
      else if 100 < b.p1.toNat then some .errMotorSpeed
      else if b.p2 ≠ 0 ∧ b.p2 ≠ 1 then some .errMotorDir
      else none := by
  simp only [fieldFailure, motorIdLegal_eq_false, motorSpeedLegal_eq_false, motorDirLegal_eq_false]

/-- Settles O41: the end of MOTOR is the first check that fails, or its call. -/
theorem motorChecksThenCalls : Obligations.MotorChecksThenCalls := by
  intro s b hi hck
  have hfield := fieldFailure_motor s.cfg b
  split_ifs at hfield ⊢ with hid hspeed hdir
  · exact exec_instr_of_failure (c := .motor) hi hck hfield
  · exact exec_instr_of_failure (c := .motor) hi hck hfield
  · exact exec_instr_of_failure (c := .motor) hi hck hfield
  · exact exec_instr_of_no_failure (c := .motor) hi hck hfield (by simp)

/-! ### MOTORANGLE (R133, R160, R161) -/

theorem fieldFailure_motorangle (p : Params) (b : FrameBody) :
    fieldFailure p .motorangle b =
      if angleOperand b < p.angleMin ∨ p.angleMax < angleOperand b then some .errAngle else none := by
  simp only [fieldFailure, angleLegal_eq_false]

/-- A legal MOTORANGLE makes its call, and the registers are those of the angle request. -/
theorem exec_motorangle_of_gotoAngle {b : FrameBody} {s : State} {r : Pac} (hi : s.pac.Idle)
    (hck : ck16 s.cfg (coveredBytes 2 b) = b.cks) (hmin : s.cfg.angleMin ≤ angleOperand b)
    (hmax : angleOperand b ≤ s.cfg.angleMax) (hr : s.pac.gotoAngle s.cfg (angleWord b) b.p3 = some r) :
    exec (.motorangle b) s = .next ((callAndReturn (.angleSet (angleWord b) b.p3) s).setPac r) := by
  refine (exec_instr_of_intact .motorangle hi hck).trans ?_
  rcases motorangleStages_cases b hi with ⟨hillegal, -⟩ | ⟨-, r', hr', hrun⟩
  · have := angleLegal_eq_false.1 hillegal
    omega
  · cases hr.symm.trans hr'
    exact hrun

/-- The target of R160 with the clamp as a minimum and a maximum. -/
theorem targetOf_eq (p : Params) (r : Pac) (a : Half) (d : Byte) :
    targetOf p r a d =
      if d = p.dirCw then
        r.encCenter + Int.tdiv (Int.tdiv (max 0 (min 90 a.toInt) * (r.encMax - r.encMin)) 2) 90
      else
        r.encCenter - Int.tdiv (Int.tdiv (max 0 (min 90 a.toInt) * (r.encMax - r.encMin)) 2) 90 := by
  simp only [targetOf, halfTerm, tdiv, clampInt_eq]

/-- An angle request in `UNCAL` (R161). -/
theorem Pac.gotoAngle_of_uncal {p : Params} {r : Pac} (h : r.ctlState = .uncal) (a : Half) (d : Byte) :
    r.gotoAngle p a d = some { r with ctlStatus := .notCalibrated } := by
  simp [Pac.gotoAngle, h]

/-- An angle request in `READY` (R160): the target of a calibrated block is written as it is. -/
theorem Pac.Wf.gotoAngle_of_ready {p : Params} {r : Pac} (hp : p.Wf) (hr : r.Wf p) (h : r.ctlState = .ready) (a : Half)
    (d : Byte) :
    r.gotoAngle p a d = some { r with
      target := targetOf p r a d, ctlState := .seek, sub := .first, pace := 0, tmo := 0, ctlStatus := .noneYet } := by
  have htarget := hr.narrowS_targetOf hp (Pac.calibrated_eq_true.2 (.inl h)) a d
  simp [Pac.gotoAngle, h, htarget]

/-- Settles O42: the angle check, then the call with the registers of the angle request in either idle state. -/
theorem motorangleChecksThenSteers : Obligations.MotorangleChecksThenSteers := by
  intro s b hinv hck
  refine ⟨fun hi hrange => ?_, fun hc hmin hmax => ?_, fun hc hmin hmax => ?_⟩
  · exact exec_instr_of_failure (c := .motorangle) hi hck ((fieldFailure_motorangle s.cfg b).trans (if_pos hrange))
  · exact exec_motorangle_of_gotoAngle (.inl hc) hck hmin hmax (Pac.gotoAngle_of_uncal hc _ _)
  · rw [← targetOf_eq]
    exact exec_motorangle_of_gotoAngle (.inr hc) hck hmin hmax (hinv.pac_wf.gotoAngle_of_ready hinv.cfg_wf hc _ _)

/-! ### CARHORN (R135) -/

/-- A duration is negative from byte 128 up (R78, R81). -/
theorem fieldFailure_carhorn (p : Params) (b : FrameBody) :
    fieldFailure p .carhorn b = if 128 ≤ b.p1.toNat then some .errHornDuration else none := by
  have hneg : b.p1.toInt < 0 ↔ 128 ≤ b.p1.toNat := BitVec.toInt_neg_iff.trans (by omega)
  simp only [fieldFailure, durationLegal_eq_false, hneg]

/-- A duration that is not negative fits the horn's port in milliseconds (R178 (c)). -/
theorem hornMs_toNat {b : FrameBody} (h : b.p1.toNat < 128) : (hornMs b).toNat = b.p1.toNat * 1000 := by
  have hdur : durationOperand b = b.p1.toNat := BitVec.toInt_eq_toNat_of_lt (by omega)
  rw [hornMs, hdur, BitVec.toNat_ofInt]
  omega

/-- Settles O43: the duration check, then the horn with the milliseconds. -/
theorem carhornChecksThenCalls : Obligations.CarhornChecksThenCalls := by
  intro s b hi hck
  refine ⟨fun hneg => ?_, fun hlt => ⟨hornMs b, hornMs_toNat hlt, ?_⟩⟩
  · exact exec_instr_of_failure (c := .carhorn) hi hck ((fieldFailure_carhorn s.cfg b).trans (if_pos hneg))
  · exact exec_instr_of_no_failure (c := .carhorn) hi hck
      ((fieldFailure_carhorn s.cfg b).trans (if_neg (Nat.not_le.2 hlt))) (by simp)

/-! ### CARLIGHT (R137, R138) -/

theorem fieldFailure_carlight (p : Params) (b : FrameBody) :
    fieldFailure p .carlight b = if 7 < b.p1.toNat then some .errLightCode else none := by
  simp only [fieldFailure, lightCodeLegal_eq_false]

/-- The code-to-action table of R138: code, channel, on. -/
def lightTable : List (Byte × BitVec 2 × BitVec 1) :=
  [(0, 0, 1), (1, 0, 0), (2, 1, 1), (3, 1, 0), (4, 2, 1), (5, 2, 0), (6, 3, 1), (7, 3, 0)]

/-- The bits of a listed code are its row: the channel above, the inverse of `on` below. -/
theorem lightTable_bits : ∀ row ∈ lightTable,
    row.1.toNat ≤ 7 ∧ row.1.extractLsb' 1 2 = row.2.1 ∧ 1 - row.1.extractLsb' 0 1 = row.2.2 := by
  simp [lightTable]

/-- A listed code calls the light of its row. -/
theorem commandCall_carlight {b : FrameBody} {row : Byte × BitVec 2 × BitVec 1} (hrow : row ∈ lightTable)
    (hcode : b.p1 = row.1) : commandCall .carlight b = some (.lightSet row.2.1 row.2.2) := by
  obtain ⟨-, hchannel, hon⟩ := lightTable_bits row hrow
  simp only [commandCall, lightChannel, lightOn, hcode, hchannel, hon]

/-- Settles O44: the code check, then the light of the code's row. -/
theorem carlightMapsCodes : Obligations.CarlightMapsCodes := by
  intro s b hi hck
  refine ⟨fun hcode => ?_, fun row hrow hcode => ?_⟩
  · exact exec_instr_of_failure (c := .carlight) hi hck ((fieldFailure_carlight s.cfg b).trans (if_pos hcode))
  · have hle : ¬ 7 < b.p1.toNat := Nat.not_lt.2 (hcode ▸ (lightTable_bits row hrow).1)
    have hrun := exec_instr_of_no_failure (c := .carlight) hi hck
      ((fieldFailure_carlight s.cfg b).trans (if_neg hle)) (by simp)
    rw [commandCall_carlight hrow hcode] at hrun
    exact hrun

/-! ### CARCONFIRMATION (R139) -/

/-- Settles O45: no check of its own can fail, and there is no call to record. -/
theorem carconfirmationReturnsOk : Obligations.CarconfirmationReturnsOk := by
  intro s b hi hck
  have hrun := exec_instr_of_no_failure (c := .carconfirmation) hi hck rfl (by simp)
  simp only [commandCall, Option.toList_none, List.append_nil] at hrun
  exact hrun

end Sys2Proof.Machine
end

section
/-! CALIBRATE and GOTOANGLE (`spec/43_angle_controller.md` R152, R160 to R162): the request driven directly is the angle
request on the registers, and what that does depends on the angle and the direction through the target only. -/

namespace Sys2Proof.Machine

open Sys2Proof.Config

/-- Settles O46. -/
theorem calibrateStartsFirstSweep : Obligations.CalibrateStartsFirstSweep :=
  fun _ hi => execCalibrate_of_idle hi

/-! ### The request on the registers -/

theorem exec_gotoangle_of_eq_some {s : State} {a : Half} {d : Byte} {r : Pac} (h : s.pac.gotoAngle s.cfg a d = some r) :
    exec (.gotoangle a d) s = .next (s.setPac r) := by
  simp [exec, execGotoangle, h]

/-- In `READY` a good state starts the seek of R160. -/
theorem exec_gotoangle_of_ready {s : State} (hs : s.Inv) (hc : s.pac.ctlState = .ready) (a : Half) (d : Byte) :
    exec (.gotoangle a d) s = .next (s.setPac { s.pac with
      target := targetOf s.cfg s.pac a d, ctlState := .seek, sub := .first, pace := 0, tmo := 0,
      ctlStatus := .noneYet }) :=
  exec_gotoangle_of_eq_some (hs.pac_wf.gotoAngle_of_ready hs.cfg_wf hc a d)

/-- Settles O47, with the clamp of R160 as a minimum and a maximum. -/
theorem gotoAngleStartsSeek : Obligations.GotoAngleStartsSeek := by
  intro s a d hs hc
  rw [← targetOf_eq]
  exact exec_gotoangle_of_ready hs hc a d

/-- Settles O48: directly, and through an intact frame with a legal angle. -/
theorem gotoAngleUncalibratedOnlySetsStatus : Obligations.GotoAngleUncalibratedOnlySetsStatus := by
  intro s hc
  have hgoto := Pac.gotoAngle_of_uncal (p := s.cfg) hc
  refine ⟨fun a d => exec_gotoangle_of_eq_some (hgoto a d), fun b hwf => ?_⟩
  obtain ⟨hck, hlegal⟩ := (wellFormed_instr s.cfg .motorangle b).1 hwf
  have hrange : s.cfg.angleMin ≤ angleOperand b ∧ angleOperand b ≤ s.cfg.angleMax := by
    simpa [legal, angleLegal] using hlegal
  exact ⟨_, exec_motorangle_of_gotoAngle (.inl hc) hck hrange.1 hrange.2 (hgoto _ _), rfl, rfl⟩

/-! ### The angle map (R162) -/

/-- The target depends on the angle through its clamp, and on the direction through its being `DIR_CW`. -/
theorem targetOf_congr {p : Params} {r : Pac} {a a' : Half} {d d' : Byte}
    (ha : max 0 (min 90 a.toInt) = max 0 (min 90 a'.toInt)) (hd : d = p.dirCw ↔ d' = p.dirCw) :
    targetOf p r a d = targetOf p r a' d' := by
  simp only [targetOf_eq, ha, hd]

/-- Angle 0 is the centre, in every direction. -/
theorem targetOf_zero (p : Params) (r : Pac) (d : Byte) : targetOf p r 0 d = r.encCenter := by
  simp [targetOf_eq]

/-- The term `half` at 90 degrees is half the range. -/
theorem halfTerm_ninety {lo hi : Int} (h : lo ≤ hi) : halfTerm lo hi 90 = (hi - lo) / 2 := by
  have hclamp : clampInt (90 : Half).toInt clampLo clampHi = 90 := by decide
  rw [halfTerm, hclamp, tdiv, tdiv, Int.tdiv_eq_ediv_of_nonneg (a := 90 * (hi - lo)) (by omega),
    Int.tdiv_eq_ediv_of_nonneg (by omega)]
  omega

/-- Angle 90 is half the range away from the centre. -/
theorem natAbs_targetOf_ninety {p : Params} {r : Pac} (h : r.encMin ≤ r.encMax) (d : Byte) :
    (targetOf p r 90 d - r.encCenter).natAbs = (r.encMax - r.encMin).toNat / 2 := by
  rw [targetOf, halfTerm_ninety h]
  split <;> omega

/-- Settles O49, clause by clause on the target. -/
theorem angleMapProperties : Obligations.AngleMapProperties := by
  intro s a d d' hs hc
  have hrun := exec_gotoangle_of_ready hs hc
  have hmid := hs.pac_wf.center_mid (Pac.calibrated_eq_true.2 (.inl hc))
  refine ⟨fun ha => ?_, fun ha => ?_, fun t ht => ?_, fun t hle ht => ?_, fun hd hd' => ?_, fun t hle ht => ?_⟩
  · have hninety : (90 : Half).toInt = 90 := by decide
    rw [hrun, hrun, targetOf_congr (a' := 90) (by omega) Iff.rfl]
  · have hzero : (0 : Half).toInt = 0 := by decide
    rw [hrun, hrun, targetOf_congr (a' := 0) (by omega) Iff.rfl]
  · cases (hrun 0 d).symm.trans ht
    exact targetOf_zero _ _ _
  · cases (hrun 90 d).symm.trans ht
    exact natAbs_targetOf_ninety hle d
  · rw [hrun, hrun, targetOf_congr (d' := d') rfl (by simp [hd, hd'])]
  · cases (hrun a d).symm.trans ht
    exact (targetOf_bounds hmid a d).1 hle

end Sys2Proof.Machine
end

section
/-! One TICK, whole (`spec/43_angle_controller.md` R165 to R176): in a good state no write of a rule is narrowed, so
each phase is its pseudocode on the plain values. -/

namespace Sys2Proof.Machine

open Sys2Proof.Config

/-- The whole next state of a TICK by what it does to the registers. -/
theorem exec_tick_of_pac {s : State} {r : Pac} (h : s.pac.tick s.cfg s.port.encPos = r) :
    exec .tick s = .next { s with pac := r, strobes := Strobes.low } := by
  subst h
  rfl

theorem limitPassed_eq_false_iff_not {limit tmo : Nat} :
    limitPassed limit tmo = false ↔ ¬ (limit ≠ 0 ∧ limit < tmo + 1) := by
  rw [← limitPassed_eq_true, Bool.not_eq_true]

/-! ### The values a phase writes (R21) -/

section Written

variable {p : Params} (hp : p.Wf)
include hp

theorem tmoAfter_cal {tmo : Nat} (h : limitPassed p.calTimeoutTicks tmo = false) :
    tmoAfter p p.calTimeoutTicks tmo = if p.calTimeoutTicks ≠ 0 then tmo + 1 else tmo :=
  tmoAfter_eq hp.calTimeoutTicks_lt h

theorem tmoAfter_seek {tmo : Nat} (h : limitPassed p.seekTimeoutTicks tmo = false) :
    tmoAfter p p.seekTimeoutTicks tmo = if p.seekTimeoutTicks ≠ 0 then tmo + 1 else tmo :=
  tmoAfter_eq hp.seekTimeoutTicks_lt h

theorem narrowU_pace_settle {k : Nat} (h : k < p.calSettleTicks) : narrowU p.cntW k = k := by
  have := hp.calSettleTicks_lt
  exact narrowU_of_lt (by omega)

theorem narrowU_pace_drive {k : Nat} (h : k < p.driveTicks) : narrowU p.cntW k = k := by
  have := hp.driveTicks_lt
  exact narrowU_of_lt (by omega)

theorem narrowU_pace_stop {k : Nat} (h : k < p.stopTicks) : narrowU p.cntW k = k := by
  have := hp.stopTicks_lt
  exact narrowU_of_lt (by omega)

end Written

/-! ### A sweep step (R166, R167, R169) -/

theorem Pac.tick_of_sweep {p : Params} {e : Int} {r : Pac} (hc : r.ctlState = .calib) (hs : r.sub ≠ .second) :
    r.tick p e = r.sweep p e := by
  cases hsub : r.sub with
  | first => exact Pac.tick_sweepMin hc hsub
  | second => exact absurd hsub hs
  | third => exact Pac.tick_sweepMax hc hsub

/-- The registers after a sample that does not complete the count, written as it is. -/
def Pac.counted (p : Params) (e : Int) (r : Pac) : Pac :=
  { r with
    dbLast := e
    dbValid := true
    dbCnt := matchCount p e r
    tmo := if p.calTimeoutTicks ≠ 0 then r.tmo + 1 else r.tmo }

theorem Pac.sweep_of_limitPassed {p : Params} {e : Int} {r : Pac} (h : limitPassed p.calTimeoutTicks r.tmo = true) :
    r.sweep p e = r.calAbort := by
  simp only [Pac.sweep, h, if_true]

theorem Pac.sweep_of_full {p : Params} {e : Int} {r : Pac} (h : limitPassed p.calTimeoutTicks r.tmo = false)
    (hcnt : p.calStableN ≤ matchCount p e r) : r.sweep p e = r.limitFound p e := by
  simp [Pac.sweep, h, hcnt]

theorem Pac.sweep_of_not_full {p : Params} {e : Int} {r : Pac} (hp : p.Wf) (he : FitsS p.encW e)
    (h : limitPassed p.calTimeoutTicks r.tmo = false) (hcnt : matchCount p e r < p.calStableN) :
    r.sweep p e = r.counted p e := by
  have hcnt' : ¬ matchCount p e r ≥ p.calStableN := Nat.not_le.2 hcnt
  simp only [Pac.sweep, Pac.counted, h, hcnt', narrowS_of_fits (encW_pos hp) he, narrowU_matchCount hp hcnt,
    tmoAfter_cal hp h, if_false, Bool.false_eq_true]

/-- LIMIT_FOUND on a sample that fits, at the end of the first sweep: the sample is recorded as it is. -/
theorem Pac.limitFound_first_of_fits {p : Params} {e : Int} {r : Pac} (hp : p.Wf) (he : FitsS p.encW e)
    (h : r.sub = .first) :
    r.limitFound p e = { r with
      actDuty := 0, dbValid := false, dbCnt := 0, tmo := 0, pace := 0, encMin := e, sub := .second } := by
  rw [Pac.limitFound_first h, narrowS_of_fits (encW_pos hp) he]

/-- And at the end of the second: so is the midpoint. -/
theorem Pac.limitFound_third_of_fits {p : Params} {e : Int} {r : Pac} (hp : p.Wf) (he : FitsS p.encW e)
    (hmin : FitsS p.encW r.encMin) (h : r.sub = .third) :
    r.limitFound p e = { r with
      actDuty := 0, dbValid := false, dbCnt := 0, tmo := 0, pace := 0, encMax := e,
      encCenter := tdiv (r.encMin + e) 2, ctlState := .ready, sub := .first, ctlStatus := .calOk } := by
  rw [Pac.limitFound_third h, narrowS_of_fits (encW_pos hp) he,
    narrowS_of_fits (encW_pos hp) (fitsS_midpoint hmin he)]

/-- Settles O51: the branches of the sweep on the plain values. -/
theorem sweepStepDetectsLimits : Obligations.SweepStepDetectsLimits := by
  intro s hs hc hsub
  have hp := hs.cfg_wf
  have he := hs.encPos_fits
  have htick : s.pac.tick s.cfg s.port.encPos = s.pac.sweep s.cfg s.port.encPos :=
    Pac.tick_of_sweep hc (by rcases hsub with h | h <;> simp [h])
  refine ⟨fun hlim => ?_, fun cnt hcnt hlim => ?_⟩
  · exact exec_tick_of_pac (htick.trans (Pac.sweep_of_limitPassed (limitPassed_eq_true.2 hlim)))
  · have hcnt : cnt = matchCount s.cfg s.port.encPos s.pac := hcnt
    subst hcnt
    have hlim := limitPassed_eq_false_iff_not.2 hlim
    refine ⟨fun hlt => ?_, fun hfull hfirst => ?_, fun hfull hthird => ?_⟩
    · exact exec_tick_of_pac (htick.trans (Pac.sweep_of_not_full hp he hlim hlt))
    · exact exec_tick_of_pac
        (htick.trans ((Pac.sweep_of_full hlim hfull).trans (Pac.limitFound_first_of_fits hp he hfirst)))
    · exact exec_tick_of_pac
        (htick.trans ((Pac.sweep_of_full hlim hfull).trans
          (Pac.limitFound_third_of_fits hp he hs.pac_wf.encMin_fits hthird)))

/-! ### A settle step (R176) -/

theorem Pac.settle_eq {p : Params} (hp : p.Wf) (r : Pac) :
    r.settle p =
      if p.calSettleTicks ≤ r.pace + 1 then
        { r with sub := .third, actDir := true, actDuty := dutyBits p.calDuty, pace := 0 }
      else { r with pace := r.pace + 1 } := by
  rcases Pac.settle_cases p r with ⟨hend, h⟩ | ⟨hwait, h⟩ <;> rw [h]
  · rw [if_pos hend]
  · rw [if_neg (Nat.not_le.2 hwait), narrowU_pace_settle hp hwait]

/-! ### A SAMPLE step (R170 to R173) -/

theorem Pac.sample_eq {p : Params} (hp : p.Wf) (e : Int) (r : Pac) :
    r.sample p e =
      if p.seekTimeoutTicks ≠ 0 ∧ p.seekTimeoutTicks < r.tmo + 1 then r.seekEnd .seekTimeout
      else if r.target < r.encMin ∨ r.encMax < r.target then r.seekEnd .rangeFault
      else if (e - r.target).natAbs ≤ p.seekTol then r.seekEnd .seekOk
      else
        { r with
          actDir := decide (e < r.target)
          actDuty := dutyBits (seekDutyOf p (e - r.target).natAbs)
          sub := .second
          pace := 0
          tmo := if p.seekTimeoutTicks ≠ 0 then r.tmo + 1 else r.tmo } := by
  rcases Pac.sample_cases p e r with ⟨hlim, h⟩ | ⟨hlim, hrange, h⟩ | ⟨hlim, hrange, htol, h⟩ |
    ⟨hlim, hrange, htol, h⟩ <;> rw [h]
  · rw [if_pos (limitPassed_eq_true.1 hlim)]
  · rw [if_neg (limitPassed_eq_false_iff_not.1 hlim), if_pos hrange]
  · rw [if_neg (limitPassed_eq_false_iff_not.1 hlim), if_neg (by omega), if_pos htol]
  · rw [if_neg (limitPassed_eq_false_iff_not.1 hlim), if_neg (by omega), if_neg (by omega), tmoAfter_seek hp hlim]
    simp only [sub_neg]

/-- Settles O54. -/
theorem sampleStepSteersToTarget : Obligations.SampleStepSteersToTarget :=
  fun _ hs hc hsub => exec_tick_of_pac ((Pac.tick_sample hc hsub).trans (Pac.sample_eq hs.cfg_wf _ _))

/-- Settles O55: in a good state the target is between the limits when they are in order; when they are not, nothing
is. -/
theorem rangeFaultExactlyWhenLimitsReversed : Obligations.RangeFaultExactlyWhenLimitsReversed := by
  intro s hs hc hsub hlim
  have hbetween := hs.pac_wf.target_between hc
  have hlim := limitPassed_eq_false.2 hlim
  refine ⟨_, exec_tick_of_pac (Pac.tick_sample hc hsub), ?_⟩
  rcases Pac.sample_cases s.cfg s.port.encPos s.pac with ⟨hlim', -⟩ | ⟨-, hrange, h⟩ | ⟨-, hrange, -, h⟩ |
    ⟨-, hrange, -, h⟩
  · simp [hlim] at hlim'
  · have hrev : s.pac.encMax < s.pac.encMin := by omega
    rw [h]
    exact ⟨by simp [Pac.seekEnd, hrev], fun _ => ⟨rfl, rfl, rfl, rfl⟩⟩
  all_goals
    have hord : ¬ s.pac.encMax < s.pac.encMin := by omega
    rw [h]
    exact ⟨by simp [Pac.seekEnd, hc, hord], fun hrev => absurd hrev hord⟩

/-! ### DRIVE and STOP steps (R174, R175) -/

theorem Pac.drive_eq {p : Params} (hp : p.Wf) (r : Pac) :
    r.drive p =
      if p.seekTimeoutTicks ≠ 0 ∧ p.seekTimeoutTicks < r.tmo + 1 then r.seekEnd .seekTimeout
      else if p.driveTicks ≤ r.pace + 1 then
        { r with
          actDuty := 0, sub := .third, pace := 0, tmo := if p.seekTimeoutTicks ≠ 0 then r.tmo + 1 else r.tmo }
      else { r with pace := r.pace + 1, tmo := if p.seekTimeoutTicks ≠ 0 then r.tmo + 1 else r.tmo } := by
  rcases Pac.drive_cases p r with ⟨hlim, h⟩ | ⟨hlim, hend, h⟩ | ⟨hlim, hwait, h⟩ <;> rw [h]
  · rw [if_pos (limitPassed_eq_true.1 hlim)]
  · rw [if_neg (limitPassed_eq_false_iff_not.1 hlim), if_pos hend, tmoAfter_seek hp hlim]
  · rw [if_neg (limitPassed_eq_false_iff_not.1 hlim), if_neg (Nat.not_le.2 hwait), tmoAfter_seek hp hlim,
      narrowU_pace_drive hp hwait]

theorem Pac.stop_eq {p : Params} (hp : p.Wf) (r : Pac) :
    r.stop p =
      if p.seekTimeoutTicks ≠ 0 ∧ p.seekTimeoutTicks < r.tmo + 1 then r.seekEnd .seekTimeout
      else if p.stopTicks ≤ r.pace + 1 then
        { r with sub := .first, pace := 0, tmo := if p.seekTimeoutTicks ≠ 0 then r.tmo + 1 else r.tmo }
      else { r with pace := r.pace + 1, tmo := if p.seekTimeoutTicks ≠ 0 then r.tmo + 1 else r.tmo } := by
  rcases Pac.stop_cases p r with ⟨hlim, h⟩ | ⟨hlim, hend, h⟩ | ⟨hlim, hwait, h⟩ <;> rw [h]
  · rw [if_pos (limitPassed_eq_true.1 hlim)]
  · rw [if_neg (limitPassed_eq_false_iff_not.1 hlim), if_pos hend, tmoAfter_seek hp hlim]
  · rw [if_neg (limitPassed_eq_false_iff_not.1 hlim), if_neg (Nat.not_le.2 hwait), tmoAfter_seek hp hlim,
      narrowU_pace_stop hp hwait]

/-- The time limit is tested first in every phase of a seek. -/
theorem Pac.tick_seek_of_limitPassed {p : Params} {e : Int} {r : Pac} (hc : r.ctlState = .seek)
    (hlim : p.seekTimeoutTicks ≠ 0 ∧ p.seekTimeoutTicks < r.tmo + 1) : r.tick p e = r.seekEnd .seekTimeout := by
  have hlim := limitPassed_eq_true.2 hlim
  cases hsub : r.sub with
  | first => simp only [Pac.tick_sample hc hsub, Pac.sample, hlim, if_true]
  | second => simp only [Pac.tick_drive hc hsub, Pac.drive, hlim, if_true]
  | third => simp only [Pac.tick_stop hc hsub, Pac.stop, hlim, if_true]

/-- Settles O56. -/
theorem driveAndStopStepsPace : Obligations.DriveAndStopStepsPace := by
  intro s hs hc
  refine ⟨fun hlim => exec_tick_of_pac (Pac.tick_seek_of_limitPassed hc hlim),
    fun hlim => ⟨fun hsub => ?_, fun hsub => ?_⟩⟩
  · exact exec_tick_of_pac ((Pac.tick_drive hc hsub).trans ((Pac.drive_eq hs.cfg_wf _).trans (if_neg hlim)))
  · exact exec_tick_of_pac ((Pac.tick_stop hc hsub).trans ((Pac.stop_eq hs.cfg_wf _).trans (if_neg hlim)))

end Sys2Proof.Machine
end

section
/-! The transition table (`spec/43_angle_controller.md` R151): which pairs of `CTL_STATE` and `CTL_STATUS` a TICK
leaves, phase by phase, and the events of a step. -/

namespace Sys2Proof.Machine

open Sys2Proof.Config

/-- What the transition table speaks of: `CTL_STATE` and `CTL_STATUS`. -/
def Pac.mode (r : Pac) : CtlState × CtlStatus := (r.ctlState, r.ctlStatus)

/-! ### TICK -/

/-- A sweep leaves `CALIB` past its time limit, and in its second part when the count is full (R167, R169). -/
theorem Pac.sweep_mode (p : Params) (e : Int) {r : Pac} (hs : r.sub = .first ∨ r.sub = .third) :
    (r.sweep p e).mode =
      if p.calTimeoutTicks ≠ 0 ∧ p.calTimeoutTicks < r.tmo + 1 then (.uncal, .calTimeout)
      else if r.sub = .third ∧ p.calStableN ≤ matchCount p e r then (.ready, .calOk)
      else r.mode := by
  rcases Pac.sweep_cases p e r with ⟨hlim, h⟩ | ⟨hlim, hfull, h⟩ | ⟨hlim, hcnt, h⟩ <;> rw [h]
  · rw [if_pos (limitPassed_eq_true.1 hlim)]
    rfl
  · rw [if_neg (limitPassed_eq_false_iff_not.1 hlim)]
    rcases hs with hs | hs
    · rw [Pac.limitFound_first hs, if_neg (by simp [hs])]
      rfl
    · rw [Pac.limitFound_third hs, if_pos ⟨hs, hfull⟩]
      rfl
  · rw [if_neg (limitPassed_eq_false_iff_not.1 hlim), if_neg (fun hfull => Nat.not_le.2 hcnt hfull.2)]
    rfl

theorem Pac.settle_mode (p : Params) (r : Pac) : (r.settle p).mode = r.mode := by
  rcases Pac.settle_cases p r with ⟨-, h⟩ | ⟨-, h⟩ <;> rw [h] <;> rfl

/-- A SAMPLE step ends the seek by one of its three tests (R170). -/
theorem Pac.sample_mode (p : Params) (e : Int) (r : Pac) :
    (r.sample p e).mode =
      if p.seekTimeoutTicks ≠ 0 ∧ p.seekTimeoutTicks < r.tmo + 1 then (.ready, .seekTimeout)
      else if r.target < r.encMin ∨ r.encMax < r.target then (.ready, .rangeFault)
      else if (e - r.target).natAbs ≤ p.seekTol then (.ready, .seekOk)
      else r.mode := by
  rcases Pac.sample_cases p e r with ⟨hlim, h⟩ | ⟨hlim, hrange, h⟩ | ⟨hlim, hrange, htol, h⟩ |
    ⟨hlim, hrange, htol, h⟩ <;> rw [h]
  · rw [if_pos (limitPassed_eq_true.1 hlim)]
    rfl
  · rw [if_neg (limitPassed_eq_false_iff_not.1 hlim), if_pos hrange]
    rfl
  · rw [if_neg (limitPassed_eq_false_iff_not.1 hlim), if_neg (by omega), if_pos htol]
    rfl
  · rw [if_neg (limitPassed_eq_false_iff_not.1 hlim), if_neg (by omega), if_neg (by omega)]
    rfl

/-- DRIVE and STOP steps end the seek by its time limit only (R174, R175). -/
theorem Pac.drive_mode (p : Params) (r : Pac) :
    (r.drive p).mode =
      if p.seekTimeoutTicks ≠ 0 ∧ p.seekTimeoutTicks < r.tmo + 1 then (.ready, .seekTimeout) else r.mode := by
  rcases Pac.drive_cases p r with ⟨hlim, h⟩ | ⟨hlim, -, h⟩ | ⟨hlim, -, h⟩ <;> rw [h]
  · rw [if_pos (limitPassed_eq_true.1 hlim)]
    rfl
  all_goals
    rw [if_neg (limitPassed_eq_false_iff_not.1 hlim)]
    rfl

theorem Pac.stop_mode (p : Params) (r : Pac) :
    (r.stop p).mode =
      if p.seekTimeoutTicks ≠ 0 ∧ p.seekTimeoutTicks < r.tmo + 1 then (.ready, .seekTimeout) else r.mode := by
  rcases Pac.stop_cases p r with ⟨hlim, h⟩ | ⟨hlim, -, h⟩ | ⟨hlim, -, h⟩ <;> rw [h]
  · rw [if_pos (limitPassed_eq_true.1 hlim)]
    rfl
  all_goals
    rw [if_neg (limitPassed_eq_false_iff_not.1 hlim)]
    rfl

/-- The rows of the table whose event is in a TICK. -/
theorem Pac.tick_mode (p : Params) (e : Int) (r : Pac) :
    (r.tick p e).mode =
      if r.ctlState = .calib ∧ r.sub ≠ .second ∧ p.calTimeoutTicks ≠ 0 ∧ p.calTimeoutTicks < r.tmo + 1 then
        (.uncal, .calTimeout)
      else if r.ctlState = .calib ∧ r.sub = .third ∧ p.calStableN ≤ matchCount p e r then (.ready, .calOk)
      else if r.ctlState = .seek ∧ p.seekTimeoutTicks ≠ 0 ∧ p.seekTimeoutTicks < r.tmo + 1 then (.ready, .seekTimeout)
      else if r.ctlState = .seek ∧ r.sub = .first ∧ (r.target < r.encMin ∨ r.encMax < r.target) then
        (.ready, .rangeFault)
      else if r.ctlState = .seek ∧ r.sub = .first ∧ (e - r.target).natAbs ≤ p.seekTol then (.ready, .seekOk)
      else r.mode := by
  rcases Pac.tick_cases p e r with ⟨hi, h⟩ | ⟨hc, hs, h⟩ | ⟨hc, hs, h⟩ | ⟨hc, hs, h⟩ | ⟨hc, hs, h⟩ | ⟨hc, hs, h⟩ <;>
    rw [h]
  · rcases hi with hc | hc <;> simp [hc]
  · have hne : r.sub ≠ .second := by rcases hs with hs | hs <;> simp [hs]
    simp [Pac.sweep_mode p e hs, hc, hne]
  · simp [Pac.settle_mode, hc, hs]
  · simp [Pac.sample_mode, hc, hs]
  · simp [Pac.drive_mode, hc, hs]
  · simp [Pac.stop_mode, hc, hs]

/-! ### A step -/

theorem outputs_angleSet_isSome_of_call {t : State} {a : Half} {d : Byte} (h : t.strobes.call = some (.angleSet a d)) :
    t.outputs.angleSet.isSome = true := by
  simp [State.outputs, h, CallRecord.angleSet?]

theorem outputs_angleSet_of_no_angleCall {t : State} (h : ∀ a d, t.strobes.call ≠ some (.angleSet a d)) :
    t.outputs.angleSet = none := by
  cases hcall : t.strobes.call with
  | none => simp [State.outputs, hcall]
  | some r => cases r <;> simp_all [State.outputs, CallRecord.angleSet?]

/-- The events of R151 in a step of an idle block that is not reset: CALIBRATE, an angle request, or neither. -/
theorem step_idle_events {s t : State} (h : step s = .next t) (hr : s.nextDrive.rst = false) (hi : s.pac.Idle) :
    (s.nextDrive.calReq = true ∧ t.pac = s.pac.calibrate s.cfg) ∨
    (s.nextDrive.calReq = false ∧ t.outputs.angleSet.isSome = true ∧
      ∃ a d, s.pac.gotoAngle s.cfg a d = some t.pac) ∨
    (s.nextDrive.calReq = false ∧ t.outputs.angleSet = none ∧ t.pac = s.pac) := by
  rcases step_cases s with ⟨hr', -⟩ | ⟨-, -, hc, h'⟩ | ⟨-, -, hc, -, h'⟩ | ⟨-, hb, -⟩ | ⟨-, hidle, -, h'⟩
  · simp [hr] at hr'
  · cases (h.symm.trans h').trans (execCalibrate_of_idle (s := s.latch) hi)
    exact .inl ⟨hc, rfl⟩
  · rcases execDecode_pac (s := s.latch) hi (h'.symm.trans h) with ⟨hsame, hcall⟩ | ⟨a, d, hcall, hgoto⟩
    · exact .inr (.inr ⟨hc, outputs_angleSet_of_no_angleCall hcall, hsame⟩)
    · exact .inr (.inl ⟨hc, outputs_angleSet_isSome_of_call hcall, a, d, hgoto⟩)
  · exact absurd hi hb
  · cases h.symm.trans h'
    exact .inr (.inr ⟨(hidle hi).1, rfl, rfl⟩)

/-- And of a busy one: a TICK or nothing. -/
theorem step_busy_events {s t : State} (h : step s = .next t) (hr : s.nextDrive.rst = false) (hi : ¬ s.pac.Idle) :
    (s.nextDrive.tick = true ∧ t.pac = s.pac.tick s.cfg t.port.encPos) ∨
    (s.nextDrive.tick = false ∧ t.pac = s.pac) := by
  rw [step_of_busy hi] at h
  cases ht : s.nextDrive.tick <;> simp only [hr, ht, if_true, if_false, Bool.false_eq_true] at h <;> cases h
  · exact .inr ⟨rfl, rfl⟩
  · exact .inl ⟨rfl, rfl⟩

/-- Settles O14: the row of each event, and that no other row is at hand. -/
theorem transitionsAreTheTable : Obligations.TransitionsAreTheTable := by
  intro s t h
  change t.pac.mode = _
  cases hr : s.nextDrive.rst
  case true =>
    cases h.symm.trans (step_of_rst hr)
    rfl
  by_cases hi : s.pac.Idle
  · rcases step_idle_events h hr hi with ⟨hc, ht⟩ | ⟨hc, hcall, a, d, ht⟩ | ⟨hc, hcall, ht⟩
    · simp [ht, hi, hc, Pac.mode, Pac.calibrate]
    · rcases Pac.gotoAngle_cases s.cfg a d s.pac with ⟨hst, ht'⟩ | ⟨hst, ht'⟩ | ⟨hb, -⟩
      · simp [Option.some.inj (ht.symm.trans ht'), hc, hcall, hst, Pac.mode]
      · simp [Option.some.inj (ht.symm.trans ht'), hc, hcall, hst, Pac.mode]
      · exact absurd hi hb
    · rcases hi with hst | hst <;> simp [ht, hc, hcall, hst, Pac.mode]
  · have hu : s.pac.ctlState ≠ .uncal := fun hst => hi (.inl hst)
    have hready : s.pac.ctlState ≠ .ready := fun hst => hi (.inr hst)
    rcases step_busy_events h hr hi with ⟨htick, ht⟩ | ⟨htick, ht⟩
    · have hrow := Pac.tick_mode s.cfg t.port.encPos s.pac
      rw [← ht] at hrow
      simpa [hi, hu, hready, htick, matchCount, Pac.mode] using hrow
    · simp [ht, hu, hready, htick, Pac.mode]

end Sys2Proof.Machine
end

section
/-! Intervals of ticks (`spec/43_angle_controller.md` R174, R176): how long the settle and a pulse last. -/

namespace Sys2Proof.Machine

open Sys2Proof.Config

/-! ### Intervals counted in `PACE` -/

/-- From `r` the ticks count `PACE` and do nothing else, until the one that reaches `n` leaves `r'`. -/
def Pac.IsInterval (p : Params) (n : Nat) (r r' : Pac) : Prop :=
  ∀ e k, { r with pace := k }.tick p e = if n ≤ k + 1 then r' else { r with pace := k + 1 }

/-- Fewer than `n` ticks only count. -/
theorem Pac.IsInterval.ticks_of_lt {p : Params} {n : Nat} {r r' : Pac} (hr : IsInterval p n r r') (es : List Int)
    {k : Nat} (h : k + es.length < n) : { r with pace := k }.ticks p es = { r with pace := k + es.length } := by
  induction es generalizing k with
  | nil => rfl
  | cons e es ih =>
    rw [List.length_cons] at h
    rw [Pac.ticks_cons, hr, if_neg (by omega), ih (by omega), List.length_cons]
    congr 1
    omega

/-- `n` ticks end the interval. -/
theorem Pac.IsInterval.ticks_of_eq {p : Params} {n : Nat} {r r' : Pac} (hr : IsInterval p n r r') (hn : 1 ≤ n)
    {es : List Int} (h : es.length = n) : { r with pace := 0 }.ticks p es = r' := by
  obtain ⟨l, e, rfl⟩ := (List.eq_nil_or_concat' es).resolve_left (List.ne_nil_of_length_pos (by omega))
  rw [List.length_append, List.length_singleton] at h
  rw [Pac.ticks_concat, hr.ticks_of_lt l (by omega), Nat.zero_add, hr, if_pos h.ge]

theorem Pac.with_pace_eq {r : Pac} {k : Nat} (h : r.pace = k) : { r with pace := k } = r := by
  subst h
  rfl

/-! ### The settle (R176) -/

theorem Pac.settle_isInterval {p : Params} (hp : p.Wf) {r : Pac} (hc : r.ctlState = .calib) (hs : r.sub = .second) :
    IsInterval p p.calSettleTicks r { r with
      sub := .third, actDir := true, actDuty := dutyBits p.calDuty, pace := 0 } :=
  fun _ k => (Pac.tick_settle (r := { r with pace := k }) hc hs).trans (Pac.settle_eq hp _)

/-- Settles O53: the settle is an interval of `CAL_SETTLE_TICKS` ticks. -/
theorem settleLastsItsTicks : Obligations.SettleLastsItsTicks := by
  refine ⟨fun s hs hc hsub => ?_, fun p r es hp hc hsub hpace => ?_⟩
  · exact exec_tick_of_pac ((Pac.tick_settle hc hsub).trans (Pac.settle_eq hs.cfg_wf _))
  · have hr := Pac.settle_isInterval hp hc hsub
    rw [← Pac.with_pace_eq hpace]
    refine ⟨fun hlt => ?_, fun hlen => hr.ticks_of_eq hp.calSettleTicks_pos hlen⟩
    simpa using hr.ticks_of_lt es (k := 0) (by omega)

/-! ### A pulse (R174) -/

section Pulse

variable {p : Params} (hp : p.Wf) (hlim : p.seekTimeoutTicks = 0) {r : Pac} (hc : r.ctlState = .seek)
include hp hlim hc

theorem Pac.drive_isInterval (hs : r.sub = .second) :
    IsInterval p p.driveTicks r { r with actDuty := 0, sub := .third, pace := 0 } := by
  intro e k
  rw [Pac.tick_drive (r := { r with pace := k }) hc hs, Pac.drive_eq hp]
  simp [hlim]

theorem Pac.stop_isInterval (hs : r.sub = .third) :
    IsInterval p p.stopTicks r { r with sub := .first, pace := 0 } := by
  intro e k
  rw [Pac.tick_stop (r := { r with pace := k }) hc hs, Pac.stop_eq hp]
  simp [hlim]

end Pulse

/-- Settles O57: a drive interval, and a stop interval from what it leaves. -/
theorem pulseLastsItsTicks : Obligations.PulseLastsItsTicks := by
  intro p r es hp hlim hc hsub hpace
  have hdrive := Pac.drive_isInterval hp hlim hc hsub
  have hstop := Pac.stop_isInterval (r := { r with actDuty := 0, sub := .third }) hp hlim hc rfl
  have hsplit (h : p.driveTicks ≤ es.length) :
      { r with pace := 0 }.ticks p es =
        { r with actDuty := 0, sub := .third, pace := 0 }.ticks p (es.drop p.driveTicks) := by
    conv_lhs => rw [← List.take_append_drop p.driveTicks es]
    rw [Pac.ticks_append, hdrive.ticks_of_eq hp.driveTicks_pos (by simpa using h)]
  have hdrop : (es.drop p.driveTicks).length = es.length - p.driveTicks := List.length_drop
  rw [← Pac.with_pace_eq hpace]
  refine ⟨fun hlt => ?_, fun hge hlt => ?_, fun hlen => ?_⟩
  · simpa using hdrive.ticks_of_lt es (k := 0) (by omega)
  · rw [hsplit hge, hstop.ticks_of_lt (es.drop p.driveTicks) (k := 0) (by omega), hdrop, Nat.zero_add]
  · rw [hsplit (by omega), hstop.ticks_of_eq hp.stopTicks_pos (by omega)]

end Sys2Proof.Machine
end

section
/-! The debounce (`spec/43_angle_controller.md` R166, R167): a sweep counts the samples that lie within `CAL_TOL` of the
one before, and the limit is found by the sample that makes them `CAL_STABLE_N + 1`. -/

namespace Sys2Proof.Machine

open Sys2Proof.Config

/-- How many of the samples of this sweep, the last one backward, each lie within `CAL_TOL` of the one before. -/
def Pac.steadySamples (r : Pac) : Nat := if r.dbValid = true then r.dbCnt + 1 else 0

/-- The sample `e` goes on steadily from the samples before it. -/
def Pac.Follows (p : Params) (r : Pac) (e : Int) : Prop := r.dbValid = true → (e - r.dbLast).natAbs ≤ p.calTol

/-- From `r` to `r'` a sweep has only counted samples. -/
def CountsOnly (r r' : Pac) : Prop :=
  r' = { r with dbLast := r'.dbLast, dbValid := r'.dbValid, dbCnt := r'.dbCnt, tmo := r'.tmo }

theorem CountsOnly.refl (r : Pac) : CountsOnly r r := rfl

theorem countsOnly_counted (p : Params) (e : Int) (r : Pac) : CountsOnly r (r.counted p e) := rfl

theorem CountsOnly.trans {r r' r'' : Pac} (h : CountsOnly r r') (h' : CountsOnly r' r'') : CountsOnly r r'' := by
  unfold CountsOnly at *
  rw [h', h]

/-! ### The count of one sample -/

theorem matchCount_le_steadySamples (p : Params) (e : Int) (r : Pac) : matchCount p e r ≤ r.steadySamples := by
  unfold matchCount Pac.steadySamples
  split_ifs <;> simp_all

theorem matchCount_eq_steadySamples {p : Params} {e : Int} {r : Pac} (h : r.Follows p e) :
    matchCount p e r = r.steadySamples := by
  unfold matchCount Pac.steadySamples
  split_ifs <;> simp_all [Pac.Follows]

theorem Pac.counted_steadySamples (p : Params) (e : Int) (r : Pac) :
    (r.counted p e).steadySamples = matchCount p e r + 1 := rfl

theorem Pac.counted_follows {p : Params} {e e' : Int} {r : Pac} (h : (e' - e).natAbs ≤ p.calTol) :
    (r.counted p e).Follows p e' := fun _ => h

/-! ### Samples within the time limit -/

/-- `n` more ticks of a sweep stay within the calibration time limit, if there is one. -/
def Pac.WithinCalLimit (p : Params) (r : Pac) (n : Nat) : Prop :=
  p.calTimeoutTicks ≠ 0 → r.tmo + n ≤ p.calTimeoutTicks

theorem Pac.WithinCalLimit.limitPassed {p : Params} {r : Pac} {n : Nat} (h : r.WithinCalLimit p (n + 1)) :
    limitPassed p.calTimeoutTicks r.tmo = false :=
  limitPassed_eq_false.2 fun hne => by
    have := h hne
    omega

theorem Pac.WithinCalLimit.counted {p : Params} {r : Pac} {n : Nat} (h : r.WithinCalLimit p (n + 1)) (e : Int) :
    (r.counted p e).WithinCalLimit p n := by
  intro hne
  have := h hne
  simp only [Pac.counted, if_pos hne]
  omega

section Sweep

variable {p : Params} (hp : p.Wf)
include hp

/-- A sample that cannot complete the count is counted. -/
theorem Pac.tick_eq_counted {r : Pac} {e : Int} {n : Nat} (hc : r.ctlState = .calib) (hs : r.sub ≠ .second)
    (he : FitsS p.encW e) (hlim : r.WithinCalLimit p (n + 1)) (hcnt : matchCount p e r < p.calStableN) :
    r.tick p e = r.counted p e :=
  (Pac.tick_of_sweep hc hs).trans (Pac.sweep_of_not_full hp he hlim.limitPassed hcnt)

/-- As long as the samples are too few for a full count, a sweep only counts them, whatever they are. -/
theorem Pac.ticks_countsOnly {r : Pac} {es : List Int} (hc : r.ctlState = .calib) (hs : r.sub ≠ .second)
    (he : ∀ e ∈ es, FitsS p.encW e) (hlim : r.WithinCalLimit p es.length)
    (hfew : r.steadySamples + es.length ≤ p.calStableN) : CountsOnly r (r.ticks p es) := by
  induction es generalizing r with
  | nil => exact .refl r
  | cons e es ih =>
    rw [List.length_cons] at hlim hfew
    have hcnt := matchCount_le_steadySamples p e r
    have htick := Pac.tick_eq_counted hp hc hs (he e (by simp)) hlim (by omega)
    rw [Pac.ticks_cons, htick]
    refine (countsOnly_counted p e r).trans
      (ih (r := r.counted p e) hc hs (fun x hx => he x (by simp [hx])) (hlim.counted e) ?_)
    rw [Pac.counted_steadySamples]
    omega

/-- Samples that go on steadily are counted up to the one that makes `CAL_STABLE_N + 1`, and that one is the limit. -/
theorem Pac.ticks_limitFound {r : Pac} {es : List Int} (hne : es ≠ []) (hc : r.ctlState = .calib) (hs : r.sub ≠ .second)
    (he : ∀ e ∈ es, FitsS p.encW e) (hlim : r.WithinCalLimit p es.length) (hfirst : r.Follows p (es.head hne))
    (hsteady : es.IsChain fun a b => (b - a).natAbs ≤ p.calTol)
    (hfull : r.steadySamples + es.length = p.calStableN + 1) :
    ∃ r', CountsOnly r r' ∧ r.ticks p es = r'.limitFound p (es.getLast hne) := by
  induction es generalizing r with
  | nil => exact absurd rfl hne
  | cons e es ih =>
    rw [List.length_cons] at hlim hfull
    have hcnt : matchCount p e r = r.steadySamples := matchCount_eq_steadySamples hfirst
    cases es with
    | nil =>
      rw [List.length_nil] at hfull
      exact ⟨r, .refl r, (Pac.tick_of_sweep hc hs).trans (Pac.sweep_of_full hlim.limitPassed (by omega))⟩
    | cons e' es =>
      rw [List.length_cons] at hfull
      obtain ⟨hstep, hsteady⟩ := List.isChain_cons_cons.1 hsteady
      have htick := Pac.tick_eq_counted hp hc hs (he e (by simp)) hlim (by omega)
      obtain ⟨r', hr', hrun⟩ := ih (r := r.counted p e) (by simp) hc hs (fun x hx => he x (by simp [hx]))
        (hlim.counted e) (Pac.counted_follows hstep) hsteady
        (by rw [Pac.counted_steadySamples, List.length_cons]; omega)
      refine ⟨r', (countsOnly_counted p e r).trans hr', ?_⟩
      rw [Pac.ticks_cons, htick, hrun, List.getLast_cons (a := e) (List.cons_ne_nil e' es)]

end Sweep

/-- Settles O52: in a sweep without a sample no sample has been counted. -/
theorem debounceNeedsSteadySamples : Obligations.DebounceNeedsSteadySamples := by
  intro p r es hp hlim hc hvalid he
  have hnone : r.steadySamples = 0 := by simp [Pac.steadySamples, hvalid]
  refine ⟨fun hne hlen hsteady => ?_, fun hlen hs => ?_⟩
  · have hfirst : r.Follows p (es.head hne) := fun h => by simp [hvalid] at h
    have hlast : FitsS p.encW (es.getLast hne) := he _ (List.getLast_mem hne)
    have hfound (hs : r.sub ≠ .second) :=
      Pac.ticks_limitFound hp hne hc hs he hlim hfirst hsteady (by rw [hnone, hlen, Nat.zero_add])
    refine ⟨fun hs => ?_, fun hs hmin => ?_⟩
    · obtain ⟨r', hr', hrun⟩ := hfound (by simp [hs])
      have hs' : r'.sub = .first := by rw [hr', hs]
      have hc' : r'.ctlState = .calib := by rw [hr', hc]
      rw [hrun, Pac.limitFound_first_of_fits hp hlast hs']
      exact ⟨hc', rfl, rfl, rfl⟩
    · obtain ⟨r', hr', hrun⟩ := hfound (by simp [hs])
      have hs' : r'.sub = .third := by rw [hr', hs]
      have hmin' : r'.encMin = r.encMin := by rw [hr']
      rw [hrun, Pac.limitFound_third_of_fits hp hlast (hmin' ▸ hmin) hs', hmin']
      exact ⟨rfl, rfl, rfl, rfl, rfl, rfl, rfl⟩
  · have hrun := Pac.ticks_countsOnly hp hc hs he hlim (by rw [hnone]; omega)
    rw [hrun]
    exact ⟨hc, rfl, rfl, rfl, rfl⟩

end Sys2Proof.Machine
end

section
/-! The time limits (`spec/43_angle_controller.md` R169, R175, R176): a bound on the ticks that are left falls with
every tick of a calibration or a seek, so they end; a run of tick-only steps is a run of ticks on the registers. -/

namespace Sys2Proof.Machine

open Sys2Proof.Config

/-- Ticks that lower a bound until they end in an idle state have ended when the samples are as many as the bound. -/
theorem Pac.ticks_end {p : Params} {Busy Done : Pac → Prop} (left : Pac → Nat) (hidle : ∀ r, Done r → r.Idle)
    (hpos : ∀ r, Busy r → 0 < left r)
    (htick : ∀ r e, Busy r → Done (r.tick p e) ∨ (Busy (r.tick p e) ∧ left (r.tick p e) < left r)) {r : Pac}
    (hr : Busy r) {es : List Int} (h : left r ≤ es.length) : Done (r.ticks p es) := by
  induction es generalizing r with
  | nil =>
    have := hpos r hr
    rw [List.length_nil] at h
    omega
  | cons e es ih =>
    rw [List.length_cons] at h
    rw [Pac.ticks_cons]
    rcases htick r e hr with hdone | ⟨hbusy, hless⟩
    · rwa [Pac.ticks_of_idle (hidle _ hdone)]
    · exact ih hbusy (by omega)

/-! ### A calibration (R169, R176) -/

/-- How many ticks a calibration with a time limit has left at most: its sweeps up to one past the limit, its settle. -/
def Pac.calTicksLeft (p : Params) (r : Pac) : Nat :=
  match r.sub with
  | .first => (p.calTimeoutTicks - r.tmo + 1) + p.calSettleTicks + (p.calTimeoutTicks + 1)
  | .second => (p.calSettleTicks - 1 - r.pace + 1) + (p.calTimeoutTicks - r.tmo + 1)
  | .third => p.calTimeoutTicks - r.tmo + 1

/-- A calibration has ended: idle and stopped, with one of its two results. -/
def Pac.CalEnded (r : Pac) : Prop := r.Idle ∧ r.actDuty = 0 ∧ (r.ctlStatus = .calOk ∨ r.ctlStatus = .calTimeout)

theorem Pac.calTicksLeft_pos (p : Params) (r : Pac) : 0 < r.calTicksLeft p := by
  unfold Pac.calTicksLeft
  split <;> omega

theorem Pac.settle_calTicksLeft {p : Params} (hp : p.Wf) {r : Pac} (hc : r.ctlState = .calib) (hs : r.sub = .second) :
    (r.settle p).ctlState = .calib ∧ (r.settle p).calTicksLeft p < r.calTicksLeft p := by
  rw [Pac.settle_eq hp]
  split_ifs
  all_goals
    refine ⟨hc, ?_⟩
    simp only [Pac.calTicksLeft, hs]
    omega

section Calibration

variable {p : Params} (hp : p.Wf) (hT : p.calTimeoutTicks ≠ 0) {r : Pac} (hc : r.ctlState = .calib)
include hp hT hc

theorem Pac.sweep_calTicksLeft (e : Int) (hs : r.sub = .first ∨ r.sub = .third) :
    (r.sweep p e).CalEnded ∨
      ((r.sweep p e).ctlState = .calib ∧ (r.sweep p e).calTicksLeft p < r.calTicksLeft p) := by
  rcases Pac.sweep_cases p e r with ⟨-, h⟩ | ⟨hlim, -, h⟩ | ⟨hlim, -, h⟩ <;> rw [h]
  · exact .inl ⟨.inl rfl, rfl, .inr rfl⟩
  · have hle := limitPassed_eq_false.1 hlim hT
    rcases hs with hs | hs
    · have := hp.calSettleTicks_pos
      rw [Pac.limitFound_first hs]
      refine .inr ⟨hc, ?_⟩
      simp only [Pac.calTicksLeft, hs]
      omega
    · rw [Pac.limitFound_third hs]
      exact .inl ⟨.inr rfl, rfl, .inl rfl⟩
  · have hle := limitPassed_eq_false.1 hlim hT
    rw [tmoAfter_cal hp hlim, if_pos hT]
    refine .inr ⟨hc, ?_⟩
    rcases hs with hs | hs <;> simp only [Pac.calTicksLeft, hs] <;> omega

theorem Pac.tick_calTicksLeft (e : Int) :
    (r.tick p e).CalEnded ∨
      ((r.tick p e).ctlState = .calib ∧ (r.tick p e).calTicksLeft p < r.calTicksLeft p) := by
  cases hs : r.sub with
  | first =>
    rw [Pac.tick_sweepMin hc hs]
    exact Pac.sweep_calTicksLeft hp hT hc e (.inl hs)
  | second =>
    rw [Pac.tick_settle hc hs]
    exact .inr (Pac.settle_calTicksLeft hp hc hs)
  | third =>
    rw [Pac.tick_sweepMax hc hs]
    exact Pac.sweep_calTicksLeft hp hT hc e (.inr hs)

end Calibration

/-- Settles O59: at its start a calibration has two sweeps of `T + 1` ticks and the settle left. -/
theorem calibrationTimeLimitEndsCalibration : Obligations.CalibrationTimeLimitEndsCalibration := by
  intro p r es hp hT hc hs htmo hlen
  have hleft : r.calTicksLeft p ≤ es.length := by
    simp only [Pac.calTicksLeft, hs, htmo, hlen]
    omega
  exact Pac.ticks_end (Busy := fun r => r.ctlState = .calib) (Done := Pac.CalEnded) (Pac.calTicksLeft p)
    (fun _ h => h.1) (fun r _ => r.calTicksLeft_pos p) (fun _ e h => Pac.tick_calTicksLeft hp hT h e) hc hleft

/-! ### A seek (R175) -/

/-- A tick of a seek ends it, or counts `TMO` within the limit. -/
theorem Pac.tick_seek_tmo {p : Params} (hp : p.Wf) (hT : p.seekTimeoutTicks ≠ 0) {r : Pac} (hc : r.ctlState = .seek)
    (e : Int) :
    ((r.tick p e).ctlState = .ready ∧ (r.tick p e).actDuty = 0) ∨
      ((r.tick p e).ctlState = .seek ∧ (r.tick p e).tmo = r.tmo + 1 ∧ r.tmo + 1 ≤ p.seekTimeoutTicks) := by
  cases hlim : limitPassed p.seekTimeoutTicks r.tmo with
  | true =>
    rw [Pac.tick_seek_of_limitPassed hc (limitPassed_eq_true.1 hlim)]
    exact .inl ⟨rfl, rfl⟩
  | false =>
    have hnot := limitPassed_eq_false_iff_not.1 hlim
    have hle := limitPassed_eq_false.1 hlim hT
    cases hs : r.sub with
    | first =>
      rw [Pac.tick_sample hc hs, Pac.sample_eq hp, if_neg hnot]
      split_ifs
      · exact .inl ⟨rfl, rfl⟩
      · exact .inl ⟨rfl, rfl⟩
      · exact .inr ⟨hc, rfl, hle⟩
    | second =>
      rw [Pac.tick_drive hc hs, Pac.drive_eq hp, if_neg hnot, if_pos hT]
      split_ifs <;> exact .inr ⟨hc, rfl, hle⟩
    | third =>
      rw [Pac.tick_stop hc hs, Pac.stop_eq hp, if_neg hnot, if_pos hT]
      split_ifs <;> exact .inr ⟨hc, rfl, hle⟩

/-- A seek leaves the calibration registers alone. -/
theorem Pac.tick_seek_sameCalibration {p : Params} {r : Pac} (hc : r.ctlState = .seek) (e : Int) :
    SameCalibration r (r.tick p e) :=
  (tick_sameCalibration_or_limitFound p e r).resolve_right fun ⟨hcal, _⟩ => by simp [hc] at hcal

theorem SameCalibration.trans {r r' r'' : Pac} (h : SameCalibration r r') (h' : SameCalibration r' r'') :
    SameCalibration r r'' := by
  obtain ⟨hmin, hmax, hcenter⟩ := h
  obtain ⟨hmin', hmax', hcenter'⟩ := h'
  exact ⟨hmin'.trans hmin, hmax'.trans hmax, hcenter'.trans hcenter⟩

/-- With a time limit of T ticks a seek has at most `T + 1 - TMO` ticks left. -/
theorem Pac.ticks_seek_ended {p : Params} (hp : p.Wf) (hT : p.seekTimeoutTicks ≠ 0) {r : Pac}
    (hc : r.ctlState = .seek) {es : List Int} (h : p.seekTimeoutTicks - r.tmo + 1 ≤ es.length) :
    (r.ticks p es).ctlState = .ready ∧ (r.ticks p es).actDuty = 0 ∧ SameCalibration r (r.ticks p es) := by
  refine Pac.ticks_end (Busy := fun r' => r'.ctlState = .seek ∧ SameCalibration r r')
    (Done := fun r' => r'.ctlState = .ready ∧ r'.actDuty = 0 ∧ SameCalibration r r')
    (fun r => p.seekTimeoutTicks - r.tmo + 1) (fun _ hdone => .inr hdone.1) (fun _ _ => Nat.succ_pos _) ?_
    ⟨hc, .refl r⟩ h
  rintro r' e ⟨hc', hsame⟩
  have hsame' := hsame.trans (Pac.tick_seek_sameCalibration (p := p) hc' e)
  rcases Pac.tick_seek_tmo hp hT hc' e with ⟨hready, hstopped⟩ | ⟨hseek, htmo, hle⟩
  · exact .inl ⟨hready, hstopped, hsame'⟩
  · refine .inr ⟨⟨hseek, hsame'⟩, ?_⟩
    rw [htmo]
    omega

/-! ### Steps that are ticks and nothing else -/

/-- Such a step is a TICK on the registers, in an idle state too, where both do nothing. -/
theorem step_of_onlyTick {s : State} {d : Drive} {ds : List Drive} (hinbox : s.inbox = d :: ds) (hd : OnlyTick d) :
    ∃ t, step s = .next t ∧ t.pac = s.pac.tick s.cfg (narrowS s.cfg.encW d.encPos) ∧ t.cfg = s.cfg ∧ t.inbox = ds := by
  obtain ⟨hrst, htick, hdec, hcal⟩ := hd
  have hdrive : s.nextDrive = d := State.nextDrive_of_cons hinbox
  by_cases hi : s.pac.Idle
  · refine ⟨s.latch, step_of_idle (hdrive ▸ hrst) hi (hdrive ▸ hcal) (hdrive ▸ hdec), ?_, rfl, by simp [hinbox]⟩
    rw [Pac.tick_of_idle hi]
    rfl
  · have hstep : step s = execTick s.latch := by simp [step_of_busy hi, hdrive, hrst, htick]
    exact ⟨_, hstep.trans (execTick_eq s.latch), by simp [hdrive], rfl, by simp [hinbox]⟩

/-- A run of them is a run of ticks. -/
theorem run_onlyTick {ds : List Drive} {s : State} {rest : List Drive} (hinbox : s.inbox = ds ++ rest)
    (hds : ∀ d ∈ ds, OnlyTick d) :
    ∃ t, Sys2Proof.core.run ds.length s = .next t ∧
      t.pac = s.pac.ticks s.cfg (ds.map fun d => narrowS s.cfg.encW d.encPos) := by
  induction ds generalizing s with
  | nil => exact ⟨s, rfl, rfl⟩
  | cons d ds ih =>
    obtain ⟨s', hstep, hpac, hcfg, hinbox'⟩ := step_of_onlyTick hinbox (hds d (by simp))
    obtain ⟨t, hrun, ht⟩ := ih hinbox' fun x hx => hds x (by simp [hx])
    refine ⟨t, (run_succ Sys2Proof.core ds.length s s' hstep).trans hrun, ?_⟩
    rw [ht, hpac, hcfg, List.map_cons, Pac.ticks_cons]

/-- Settles O58. -/
theorem seekTimeLimitEndsSeek : Obligations.SeekTimeLimitEndsSeek := by
  intro s ds rest hs hc htmo hT hinbox hlen hds
  obtain ⟨t, hrun, ht⟩ := run_onlyTick hinbox hds
  obtain ⟨hready, hstopped, hmin, hmax, hcenter⟩ :=
    Pac.ticks_seek_ended hs.cfg_wf hT hc (es := ds.map fun d => narrowS s.cfg.encW d.encPos)
      (by rw [htmo, List.length_map, hlen, Nat.sub_zero])
  rw [← ht] at hready hstopped hmin hmax hcenter
  exact ⟨t, hrun, hready, hstopped, hmin, hmax, hcenter⟩

end Sys2Proof.Machine
end

section
/-! The exceptions of the block (`spec/60_exceptions.md` R190 to R196). DECODE's checks are written down once, as a list in
their fixed order (R194): its codes rise, the causes of R190 are its failed checks, and DECODE answers with the first of
them, so the code it reports is the least one whose cause is present. -/

namespace Sys2Proof.Machine

open Sys2Proof.Config

/-! ### A step always answers a next state (R196) -/

theorem execCalibrate_next (s : State) : ∃ t, execCalibrate s = .next t := by
  by_cases hi : s.pac.Idle
  · exact ⟨_, execCalibrate_of_idle hi⟩
  · exact ⟨_, execCalibrate_of_busy hi⟩

/-- Settles O1: each of the five cases of a step answers a next state. -/
theorem stepNeverStops : Obligations.StepNeverStops := by
  intro s
  rcases step_cases s with ⟨-, hreset⟩ | ⟨-, -, -, hcal⟩ | ⟨-, -, -, -, hdec⟩ | ⟨-, -, -, htick⟩ | ⟨-, -, -, hnothing⟩
  · exact ⟨_, hreset⟩
  · exact hcal ▸ execCalibrate_next s.latch
  · exact hdec ▸ execDecode_next s.latch
  · exact ⟨_, htick.trans (execTick_eq s.latch)⟩
  · exact ⟨_, hnothing⟩

/-! ### A list of checks -/

/-- The code of the first check that fails, 0 when every check passes. A check is its code and whether it is passed. -/
def firstFailure : List (ResultCode × Bool) → ResultCode
  | [] => .ok
  | (code, passed) :: checks => if passed = false then code else firstFailure checks

/-- The codes of the checks rise along the list. -/
def CodesRise (checks : List (ResultCode × Bool)) : Prop :=
  checks.Pairwise fun x y => x.1.code.toNat < y.1.code.toNat

/-- Where the codes rise, the first failure is the least one. -/
theorem firstFailure_least {checks : List (ResultCode × Bool)} (h : CodesRise checks) :
    (firstFailure checks = .ok ∧ ∀ code, (code, false) ∉ checks) ∨
    ((firstFailure checks, false) ∈ checks ∧
      ∀ code, (code, false) ∈ checks → (firstFailure checks).code.toNat ≤ code.code.toNat) := by
  induction checks with
  | nil => exact .inl ⟨rfl, fun _ => List.not_mem_nil⟩
  | cons x checks ih =>
    obtain ⟨hx, hrise⟩ := List.pairwise_cons.1 h
    obtain ⟨code, passed⟩ := x
    cases passed with
    | true => simpa [firstFailure] using ih hrise
    | false =>
      refine .inr ⟨List.mem_cons_self, fun code' hmem => ?_⟩
      rcases List.mem_cons.1 hmem with heq | htail
      · cases heq
        exact le_rfl
      · exact (hx _ htail).le

/-! ### DECODE's checks in their order (R194) -/

/-- The field checks of a command, in the order of its rule. -/
def fieldChecks (p : Params) (c : Command) (b : FrameBody) : List (ResultCode × Bool) :=
  match c with
  | .motor =>
    [(.errMotorId, motorIdLegal b), (.errMotorSpeed, motorSpeedLegal b), (.errMotorDir, motorDirLegal b)]
  | .motorangle => [(.errAngle, angleLegal p b)]
  | .carhorn => [(.errHornDuration, durationLegal b)]
  | .carlight => [(.errLightCode, lightCodeLegal b)]
  | .carconfirmation => []

/-- The checks on the id and on the fields it selects. -/
def dispatchChecks (p : Params) (id : Byte) (b : FrameBody) : List (ResultCode × Bool) :=
  match commandOfId id with
  | none => [(.errUnknownCmd, false)]
  | some c => fieldChecks p c b

/-- All checks of a DECODE: absence, sentinels, checksum, id, fields. -/
def decodeChecks (p : Params) (present : Bool) (v : FrameView) : List (ResultCode × Bool) :=
  (.errNull, present) :: (.errSentinel, decide (v.start = startMarker ∧ v.stop = endMarker)) ::
    (.errChecksum, intact p v.id v.body) :: dispatchChecks p v.id v.body

theorem dispatchChecks_codesRise (p : Params) (id : Byte) (b : FrameBody) :
    CodesRise (dispatchChecks p id b) ∧ ∀ x ∈ dispatchChecks p id b, 3 < x.1.code.toNat := by
  unfold dispatchChecks CodesRise
  cases commandOfId id with
  | none => simp [ResultCode.code]
  | some c => cases c <;> simp [fieldChecks, ResultCode.code]

theorem decodeChecks_codesRise (p : Params) (present : Bool) (v : FrameView) :
    CodesRise (decodeChecks p present v) := by
  obtain ⟨hrise, hlate⟩ := dispatchChecks_codesRise p v.id v.body
  have after {n : Nat} (hn : n ≤ 3) : ∀ x ∈ dispatchChecks p v.id v.body, n < x.1.code.toNat :=
    fun x hx => hn.trans_lt (hlate x hx)
  unfold decodeChecks CodesRise
  simp only [List.pairwise_cons, List.forall_mem_cons]
  exact ⟨⟨by decide, by decide, after (by decide)⟩, ⟨by decide, after (by decide)⟩, after (by decide), hrise⟩

/-! ### DECODE answers with its first failed check (R114, R194) -/

theorem commandStrobes_resultCode (p : Params) (c : Command) (b : FrameBody) :
    (commandStrobes p c b).resultCode = firstFailure (fieldChecks p c b) := by
  cases c <;> simp only [commandStrobes, fieldFailure, fieldChecks, firstFailure]
  case carconfirmation => rfl
  all_goals split_ifs <;> rfl

theorem dispatchStrobes_resultCode (p : Params) (id : Byte) (b : FrameBody) :
    (dispatchStrobes p id b).resultCode = firstFailure (dispatchChecks p id b) := by
  unfold dispatchStrobes dispatchChecks
  cases commandOfId id with
  | none => rfl
  | some c => exact commandStrobes_resultCode p c b

theorem decodeStrobes_resultCode (p : Params) (present : Bool) (v : FrameView) :
    (decodeStrobes p present v).resultCode = firstFailure (decodeChecks p present v) := by
  simp only [decodeStrobes, decodeChecks, firstFailure, decide_eq_false_iff_not, not_and_or, intact,
    beq_eq_false_iff_ne, ← dispatchStrobes_resultCode]
  split_ifs <;> rfl

/-! ### The causes present are the failed checks (R190) -/

/-- Every check a code can fail on, by the stage it stands in. -/
theorem mem_decodeChecks {p : Params} {present : Bool} {v : FrameView} {code : ResultCode} :
    (code, false) ∈ decodeChecks p present v ↔
      code = .errNull ∧ present = false ∨
      code = .errSentinel ∧ (v.start ≠ startMarker ∨ v.stop ≠ endMarker) ∨
      code = .errChecksum ∧ ck16 p (coveredBytes v.id v.body) ≠ v.body.cks ∨
      (code, false) ∈ dispatchChecks p v.id v.body := by
  simp [decodeChecks, intact, Classical.or_iff_not_imp_left]

theorem mem_dispatchChecks {p : Params} {id : Byte} {b : FrameBody} {code : ResultCode} :
    (code, false) ∈ dispatchChecks p id b ↔
      code = .errUnknownCmd ∧ commandOfId id = none ∨
      ∃ c, commandOfId id = some c ∧ (code, false) ∈ fieldChecks p c b := by
  unfold dispatchChecks
  cases commandOfId id <;> simp

theorem mem_fieldChecks {p : Params} {c : Command} {b : FrameBody} {code : ResultCode} :
    (code, false) ∈ fieldChecks p c b ↔
      c = .motor ∧ (code = .errMotorId ∧ (b.p0 ≠ 1 ∧ b.p0 ≠ 2) ∨ code = .errMotorSpeed ∧ 100 < b.p1.toNat ∨
        code = .errMotorDir ∧ (b.p2 ≠ 0 ∧ b.p2 ≠ 1)) ∨
      c = .motorangle ∧ code = .errAngle ∧ (angleOperand b < p.angleMin ∨ p.angleMax < angleOperand b) ∨
      c = .carhorn ∧ code = .errHornDuration ∧ b.p1.toInt < 0 ∨
      c = .carlight ∧ code = .errLightCode ∧ 7 < b.p1.toNat := by
  rw [← motorIdLegal_eq_false, ← motorSpeedLegal_eq_false, ← motorDirLegal_eq_false, ← angleLegal_eq_false,
    ← durationLegal_eq_false, ← lightCodeLegal_eq_false]
  cases c <;> simp [fieldChecks]

/-- The cause of a code is present exactly when DECODE's check for it fails. -/
theorem causePresent_iff {s : State} {code : ResultCode} :
    CausePresent s code ↔ (code, false) ∈ decodeChecks s.cfg s.port.framePresent s.fb.frame := by
  rw [mem_decodeChecks, mem_dispatchChecks]
  simp only [mem_fieldChecks, commandOfId_eq_some, commandOfId_eq_none]
  cases code <;> simp [CausePresent, Command.id]

theorem not_causePresent_ok (s : State) : ¬ CausePresent s .ok := id

/-! ### The code of a DECODE (R192, R194) -/

/-- Settles O33: DECODE answers with the first of its failed checks, whose codes rise. -/
theorem decodeReportsLeastCause : Obligations.DecodeReportsLeastCause := by
  intro s hi
  obtain ⟨t, ht⟩ := execDecode_next s
  obtain ⟨hdec, hcal⟩ := execDecode_decAck hi ht
  refine ⟨t, ht, hdec, hcal, ?_⟩
  rw [execDecode_strobes hi ht, decodeStrobes_resultCode]
  simp only [causePresent_iff]
  rcases firstFailure_least (decodeChecks_codesRise s.cfg s.port.framePresent s.fb.frame) with
    ⟨hok, hnone⟩ | ⟨hmem, hleast⟩
  · exact ⟨iff_of_true hok hnone, fun hne => absurd hok hne, fun code hcode => absurd hcode (hnone code)⟩
  · have hne : firstFailure (decodeChecks s.cfg s.port.framePresent s.fb.frame) ≠ .ok := fun hok =>
      not_causePresent_ok s (causePresent_iff.2 (hok ▸ hmem))
    exact ⟨iff_of_false hne fun hnone => hnone _ hmem, fun _ => hmem, hleast⟩

/-- Settles O34: a DECODE fails by raising a code, or it runs a legal command, which returns 0. -/
theorem failedDecodeChangesNothing : Obligations.FailedDecodeChangesNothing := by
  intro s t hi h hne
  rcases execDecode_cases hi with ⟨code, -, hfail⟩ | ⟨-, -, -, -, c, -, hrun, hlegal⟩
  · cases h.symm.trans hfail
    rfl
  · have hok : t.strobes.resultCode = .ok := by
      rw [commandStages_strobes hi (hrun.symm.trans h)]
      exact commandStrobes_resultCode_eq_ok.2 hlegal
    exact absurd hok hne

end Sys2Proof.Machine
end

section
/-! Busy may last for ever (`spec/70_reset_and_hazards.md` R231): with no time limit a tick of a seek whose sample is
off the target leaves a seek to the same target, and a sweep restarts its count at every sample that is off the one
before. -/

namespace Sys2Proof.Machine

open Sys2Proof.Config

/-! ### A seek (R170, R175) -/

/-- No phase of a seek writes its target. -/
theorem Pac.tick_seek_target {p : Params} {r : Pac} (hc : r.ctlState = .seek) (e : Int) :
    (r.tick p e).target = r.target := by
  cases hs : r.sub with
  | first =>
    rw [Pac.tick_sample hc hs]
    rcases Pac.sample_cases p e r with ⟨-, h⟩ | ⟨-, -, h⟩ | ⟨-, -, -, h⟩ | ⟨-, -, -, h⟩ <;> simp [h, Pac.seekEnd]
  | second =>
    rw [Pac.tick_drive hc hs]
    rcases Pac.drive_cases p r with ⟨-, h⟩ | ⟨-, -, h⟩ | ⟨-, -, h⟩ <;> simp [h, Pac.seekEnd]
  | third =>
    rw [Pac.tick_stop hc hs]
    rcases Pac.stop_cases p r with ⟨-, h⟩ | ⟨-, -, h⟩ | ⟨-, -, h⟩ <;> simp [h, Pac.seekEnd]

section Seek

variable {p : Params} (hT : p.seekTimeoutTicks = 0)
include hT

/-- Neither the time limit, nor the range, nor the tolerance ends the seek in this tick. -/
theorem Pac.tick_seek_of_off_target {r : Pac} {e : Int} (hc : r.ctlState = .seek) (hmin : r.encMin ≤ r.target)
    (hmax : r.target ≤ r.encMax) (hoff : p.seekTol < (e - r.target).natAbs) : (r.tick p e).ctlState = .seek := by
  have hrange : ¬ (r.target < r.encMin ∨ r.encMax < r.target) := by omega
  have htol : ¬ (e - r.target).natAbs ≤ p.seekTol := Nat.not_le.2 hoff
  have hmode : (r.tick p e).mode = r.mode := by
    rw [Pac.tick_mode]
    simp [hc, hT, hrange, htol]
  exact (congrArg Prod.fst hmode).trans hc

theorem Pac.ticks_seek_of_off_target {r : Pac} {es : List Int} (hc : r.ctlState = .seek) (hmin : r.encMin ≤ r.target)
    (hmax : r.target ≤ r.encMax) (hoff : ∀ e ∈ es, p.seekTol < (e - r.target).natAbs) :
    (r.ticks p es).ctlState = .seek := by
  induction es generalizing r with
  | nil => exact hc
  | cons e es ih =>
    obtain ⟨hoffNow, hoffLater⟩ := List.forall_mem_cons.1 hoff
    obtain ⟨hsameMin, hsameMax, -⟩ := Pac.tick_seek_sameCalibration (p := p) hc e
    have htarget := Pac.tick_seek_target (p := p) hc e
    rw [Pac.ticks_cons]
    refine ih (Pac.tick_seek_of_off_target hT hc hmin hmax hoffNow) ?_ ?_ ?_
    · rwa [hsameMin, htarget]
    · rwa [hsameMax, htarget]
    · rwa [htarget]

end Seek

/-! ### A sweep (R166, R169) -/

/-- The first sample of a sweep starts the count at 0. -/
theorem matchCount_of_no_sample {p : Params} {e : Int} {r : Pac} (h : r.dbValid = false) : matchCount p e r = 0 := by
  simp [matchCount, h]

/-- So does a sample that is off the one before it. -/
theorem matchCount_counted_of_off {p : Params} {e e' : Int} {r : Pac} (h : p.calTol < (e' - e).natAbs) :
    matchCount p e' (r.counted p e) = 0 :=
  if_neg fun hsteady => Nat.not_le.2 h hsteady.2

/-- A sweep in which every sample restarts the count only counts samples, however many they are. -/
theorem Pac.ticks_countsOnly_of_unsteady {p : Params} (hp : p.Wf) (hT : p.calTimeoutTicks = 0) {r : Pac} {es : List Int}
    (hc : r.ctlState = .calib) (hs : r.sub ≠ .second) (he : ∀ e ∈ es, FitsS p.encW e)
    (hfirst : ∀ e ∈ es.head?, matchCount p e r = 0)
    (hunsteady : es.IsChain fun a b => p.calTol < (b - a).natAbs) : CountsOnly r (r.ticks p es) := by
  induction es generalizing r with
  | nil => exact .refl r
  | cons e es ih =>
    obtain ⟨heNow, heLater⟩ := List.forall_mem_cons.1 he
    obtain ⟨hoff, hunsteady⟩ := List.isChain_cons.1 hunsteady
    have hcnt : matchCount p e r < p.calStableN := by
      rw [hfirst e rfl]
      exact hp.calStableN_pos
    have hlim : r.WithinCalLimit p (0 + 1) := fun hne => absurd hT hne
    rw [Pac.ticks_cons, Pac.tick_eq_counted hp hc hs heNow hlim hcnt]
    exact (countsOnly_counted p e r).trans
      (ih hc hs heLater (fun e' he' => matchCount_counted_of_off (hoff e' he')) hunsteady)

/-- Settles O60: induction over the samples, for a seek with the target kept, for a sweep with the count restarted. -/
theorem busyMayLastForEver : Obligations.BusyMayLastForEver := by
  refine fun p r es => ⟨fun hT hc hmin hmax hoff => Pac.ticks_seek_of_off_target hT hc hmin hmax hoff,
    fun hT hp hc hs hvalid he hunsteady => ?_⟩
  have hcounts := Pac.ticks_countsOnly_of_unsteady hp hT hc hs he (fun _ _ => matchCount_of_no_sample hvalid) hunsteady
  rw [hcounts]
  exact ⟨hc, rfl⟩

end Sys2Proof.Machine
end
